-- ==== Sys2Proof/Word.lean ====
section
/-! DEFINITION. The words of the block: bytes on the pixel bus and the serial port, command words and pixels
(spec/10_state.md R20, spec/20_memory.md R64, spec/30_encoding.md R80). -/
namespace Sys2Proof

/-- A byte of the pixel bus or of the serial port (`u8`, R9). -/
abbrev Byte := BitVec 8

/-- A command word on `CMD[15:0]` (R80); it is one port value and has no byte order. -/
abbrev Word := BitVec 16

/-- A 16-bit pixel, an opaque `u16` (R132): no bit of it has a colour meaning. -/
abbrev Pixel := BitVec 16

end Sys2Proof
end

