-- ==== Sys2Proof/Config.lean ====
section
/-! DEFINITION. What an implementation fixes (spec/00_scope.md R7), the names of the agents, their moves and the host's
ports (spec/10_state.md R20, R32, R34, R35), and the free values: opaque constants that no proof can evaluate. -/
namespace Sys2Proof.Config

/-- A transition of the frame-valid line `FV` (R7, parameter FV_ACTIVE_EDGE). -/
inductive Edge where
  | rising
  | falling
  deriving DecidableEq, Repr, Inhabited

/-- An electrical level of a line (R7, parameter RRST_ACTIVE_LEVEL). -/
inductive Level where
  | low
  | high
  deriving DecidableEq, Repr, Inhabited

/-- The other electrical level (R105 (b): `RRST(0)` drives the other level). -/
def Level.other : Level → Level
  | .low => .high
  | .high => .low

/-- The implementation parameters of R7. They stand in State, where no step changes them, so that a claim about every
state holds for every value of them [DESIGN CHOICE, notes/assumptions/4.md; safe]. -/
structure Params where
  /-- `PIXEL_COUNT`, N: pixels per frame, at least 1. -/
  pixelCount : Nat
  /-- `FRAME_COUNT_WIDTH`, W: the width of the two counters. -/
  frameCountWidth : Nat
  /-- `FV_ACTIVE_EDGE`: which transition of FV is a frame-valid edge. -/
  fvActiveEdge : Edge
  /-- `RRST_ACTIVE_LEVEL`: the electrical level of an asserted read-pointer-reset line. -/
  rrstActiveLevel : Level
  /-- `MISSED_FRAME_COUNTER`: whether the missed-frame counter exists. -/
  missedFrameCounter : Bool
  deriving DecidableEq, Repr, Inhabited

/-- FV_ACTIVE_EDGE is OPEN in R7: a constant nobody can evaluate [DESIGN CHOICE, notes/assumptions/4.md; safe]. -/
opaque fvActiveEdge : Edge

/-- RRST_ACTIVE_LEVEL is OPEN in R7: a constant nobody can evaluate [DESIGN CHOICE, notes/assumptions/4.md; safe]. -/
opaque rrstActiveLevel : Level

/-- The default parameters of R7: 76800 pixels, 32-bit counters, no missed-frame counter. -/
def defaults : Params where
  pixelCount := 76800
  frameCountWidth := 32
  fvActiveEdge := Config.fvActiveEdge
  rrstActiveLevel := Config.rrstActiveLevel
  missedFrameCounter := false

/-- `FRAME_W` (R7): informational, no rule reads it. -/
def frameWidth : Nat := 320

/-- `FRAME_H` (R7): informational, no rule reads it. -/
def frameHeight : Nat := 240

/-- `START_MARKER` (R7). -/
def startMarker : List Byte := [0x01, 0xFE]

/-- `END_MARKER` (R7). -/
def endMarker : List Byte := [0xFE, 0x01]

/-- The four agents of R32. -/
inductive Agent where
  | block
  | interrupt
  | host
  | environment
  deriving DecidableEq, Repr, Inhabited

/-- The output ports a host may read (R20, R35 (b)). -/
inductive OutPort where
  | rclk
  | rrst
  | cmdReady
  | status
  | rdData
  | txData
  | txWr
  | pix16
  | pixWr
  | frameCount
  | missedCount
  deriving DecidableEq, Repr, Inhabited

/-- One step of one agent: what R31, R86, R210, R34, R35 and R250 list. -/
inductive Move where
  /-- The block's turn: its block step (R31), or its acceptance step (R86); the two are never both enabled. -/
  | block
  /-- The interrupt step (R210). -/
  | interrupt
  /-- `Issue(w)`: the host presents a command word on CMD (R35 (a)). -/
  | issue (w : Word)
  /-- The host reads an output port (R35 (b)). -/
  | read (p : OutPort)
  /-- The host asserts RST (R35 (c), R250). -/
  | reset
  /-- `SetTxReady(b)` (R34 (a)). -/
  | setTxReady (b : Bool)
  /-- `FvEdge`: one FV_ACTIVE_EDGE transition of FV (R34 (b)). -/
  | fvEdge
  deriving DecidableEq, Repr, Inhabited

/-- The agent that takes a move (R32). -/
def Move.agent : Move → Agent
  | .block => .block
  | .interrupt => .interrupt
  | .issue _ => .host
  | .read _ => .host
  | .reset => .host
  | .setTxReady _ => .environment
  | .fvEdge => .environment

/-- The move at the `n`-th draw, where the agenda lists none: any move (R32, R214)
[DESIGN CHOICE, notes/assumptions/1.md; safe]. -/
opaque freeMove : Nat → Move

/-- The byte of the `n`-th draw: any u8 (R66, U2, U9, U22; R23 for a `hi` or `lo` that holds no defined value)
[DESIGN CHOICE, notes/assumptions/3.md and 5.md; safe]. -/
opaque freeByte : Nat → Byte

/-- What RD_DATA shows at the `n`-th draw while the latch holds no defined value: any u8 (R23, U11)
[DESIGN CHOICE, notes/assumptions/5.md; safe]. -/
opaque freeRdData : Nat → Byte

/-- What a host's read of TX_DATA finds at the `n`-th draw: any u8 [DESIGN CHOICE, notes/assumptions/21.md; safe]. -/
opaque freeTxData : Nat → Byte

/-- What a host's read of TX_WR finds at the `n`-th draw: any level [DESIGN CHOICE, notes/assumptions/21.md; safe]. -/
opaque freeTxWr : Nat → Bool

/-- What a host's read of PIX_WR finds at the `n`-th draw: any level [DESIGN CHOICE, notes/assumptions/21.md; safe]. -/
opaque freePixWr : Nat → Bool

/-- The pixel of the `n`-th draw: any u16 (R23, U12) [DESIGN CHOICE, notes/assumptions/5.md; safe]. -/
opaque freePixel : Nat → Pixel

/-- The level of TX_READY at reset: any value (R22, U15) [DESIGN CHOICE, notes/assumptions/6.md; safe]. -/
opaque txReadyAtReset : Bool

end Sys2Proof.Config
end

