-- ==== Sys2Proof/Syntax.lean ====
section
/-! DEFINITION. The nine commands of the block, one constructor per row of spec/opcode_table.json
(spec/30_encoding.md R83). -/
namespace Sys2Proof

/-- A command (R83). Only `txb` has an operand, the byte `w[7:0]` (R81). -/
inductive Instr where
  /-- `RDB`, word 0x0100: read one byte from the pixel bus (R100). -/
  | rdb
  /-- `RPR`, word 0x0200: rewind the sensor's read pointer (R105). -/
  | rpr
  /-- `PXD`, word 0x0300: one pixel to the display sink (R130). -/
  | pxd
  /-- `PXS`, word 0x0400: one pixel to the serial sink (R131). -/
  | pxs
  /-- `TXB b`, word 0x10bb: transmit one byte (R170). -/
  | txb (b : Byte)
  /-- `TXSM`, word 0x1100: transmit the start marker (R175). -/
  | txsm
  /-- `TXEM`, word 0x1200: transmit the end marker (R176). -/
  | txem
  /-- `DRD`, word 0x2000: drain one frame to the display sink (R140). -/
  | drd
  /-- `DRS`, word 0x2100: drain one frame to the serial sink in its envelope (R145). -/
  | drs
  deriving DecidableEq, Repr, Inhabited

end Sys2Proof
end

