-- ==== Sys2Proof/WellFormed.lean ====
section
/-! DEFINITION. What is well formed: a command, a command word (spec/30_encoding.md R84, written from R84's two
conditions and not from the decoder), and the parameters (spec/00_scope.md R7). -/
namespace Sys2Proof

/-- A command is well formed. The operand's type holds all there is to check: R81 gives `TXB` any u8, and no other
command has an operand. -/
def Instr.wellFormed : Instr → Bool
  | .rdb => true
  | .rpr => true
  | .pxd => true
  | .pxs => true
  | .txb _ => true
  | .txsm => true
  | .txem => true
  | .drd => true
  | .drs => true

/-- The nine operation codes of R83. -/
def assignedOps : List Byte := [0x01, 0x02, 0x03, 0x04, 0x10, 0x11, 0x12, 0x20, 0x21]

/-- A legal command word: R84 calls a word illegal when its OP is none of the nine codes, or is a code other than 0x10
with a nonzero IMM8. -/
def legalWord (w : Word) : Bool :=
  assignedOps.contains (w.extractLsb' 8 8) &&
    (w.extractLsb' 8 8 == (0x10 : Byte) || w.extractLsb' 0 8 == (0x00 : Byte))

/-- The parameters are legal: R7 asks `PIXEL_COUNT` >= 1. -/
def Config.Params.wellFormed (p : Config.Params) : Bool :=
  decide (1 ≤ p.pixelCount)

end Sys2Proof
end

