-- ==== Sys2Proof/Decode.lean ====
section
/-! DEFINITION. The decoder of command words and the encoder (spec/30_encoding.md R80 to R87). -/
namespace Sys2Proof

/-- Why a word is illegal (R84): the two conditions by name. -/
inductive IllegalWord where
  /-- `w[15:8]` is none of the nine codes of R83. -/
  | unassignedOp (op : Byte)
  /-- `w[15:8]` is a code other than 0x10 and `w[7:0]` is not 0. -/
  | operandNotZero (op imm : Byte)
  deriving DecidableEq, Repr

/-- The field OP, bits 15:8 (R80). -/
def opOf (w : Word) : Byte := w.extractLsb' 8 8

/-- The field IMM8, bits 7:0 (R80). -/
def immOf (w : Word) : Byte := w.extractLsb' 0 8

/-- A command without operand: its IMM8 must be 0 (R80, R84). -/
def withoutOperand (i : Instr) (w : Word) : Except IllegalWord Instr :=
  if immOf w = 0 then .ok i else .error (.operandNotZero (opOf w) (immOf w))

/-- Decoding with the reason of a rejection (R83, R84, R85): every one of the 65536 words gets one answer. -/
def decodeWord (w : Word) : Except IllegalWord Instr :=
  if opOf w = 0x01 then withoutOperand .rdb w
  else if opOf w = 0x02 then withoutOperand .rpr w
  else if opOf w = 0x03 then withoutOperand .pxd w
  else if opOf w = 0x04 then withoutOperand .pxs w
  else if opOf w = 0x10 then .ok (.txb (immOf w))
  else if opOf w = 0x11 then withoutOperand .txsm w
  else if opOf w = 0x12 then withoutOperand .txem w
  else if opOf w = 0x20 then withoutOperand .drd w
  else if opOf w = 0x21 then withoutOperand .drs w
  else .error (.unassignedOp (opOf w))

/-- `decode : u16 -> Option Command` of R85. -/
def decode (w : Word) : Option Instr :=
  match decodeWord w with
  | .ok i => some i
  | .error _ => none

/-- The decoder read on a word numbered as spec/opcode_table.json numbers it: one 16-bit port value (R80, R87), the bits
from `nbits` up zero. -/
def decodeTableWord (nbits w : Nat) : Option Instr :=
  decode (BitVec.ofNat 16 (w % 2 ^ nbits))

/-- The operation code of a command (R83). -/
def opcode : Instr → Byte
  | .rdb => 0x01
  | .rpr => 0x02
  | .pxd => 0x03
  | .pxs => 0x04
  | .txb _ => 0x10
  | .txsm => 0x11
  | .txem => 0x12
  | .drd => 0x20
  | .drs => 0x21

/-- The field IMM8 of a command: the operand of `TXB`, 0 for every other one (R80, R81). -/
def operand : Instr → Byte
  | .rdb => 0
  | .rpr => 0
  | .pxd => 0
  | .pxs => 0
  | .txb b => b
  | .txsm => 0
  | .txem => 0
  | .drd => 0
  | .drs => 0

/-- The word of a command: OP in bits 15:8, IMM8 in bits 7:0 (R80). -/
def encode (i : Instr) : Word := opcode i ++ operand i

end Sys2Proof
end

