-- ==== Sys2Proof/Machine/State.lean ====
section
/-! DEFINITION. The state of the block (spec/10_state.md R22), its events (R33) and micro-operations (R30), the reasons a
step can stop, and the state every run starts from (spec/70_reset_and_hazards.md R250, R254). -/
namespace Sys2Proof.Machine

/-- The fault code of R200. Code 3 is reserved and never produced, so it has no constructor
[DESIGN CHOICE, notes/assumptions/14.md; safe]. -/
inductive ErrCode where
  /-- Code 0: no fault. -/
  | none
  /-- Code 1, ILLEGAL_CMD: the accepted word decodes to none. -/
  | illegalCmd
  /-- Code 2, DRAIN_NOT_READY: `DRD` or `DRS` accepted while `ready` is 0. -/
  | drainNotReady
  deriving DecidableEq, Repr, Inhabited

/-- The events of the history (R33). -/
inductive Event where
  | accept (w : Word)
  | fault (code : ErrCode)
  | rclk (l : Bool)
  | rrst (a : Bool)
  | sample (v : Byte)
  | tx (b : Byte)
  | pix (v : Pixel)
  | ackFv (p : Bool)
  | frameDone (n : Nat)
  | fvEdge
  | isr (wasReady : Bool)
  | reset
  deriving DecidableEq, Repr

/-- The destination of a `SAMPLE` beside the latch (R30). -/
inductive Dst where
  | none
  | hi
  | lo
  deriving DecidableEq, Repr

/-- The source of a `TX` (R30). -/
inductive Src where
  | imm (b : Byte)
  | hi
  | lo
  deriving DecidableEq, Repr

/-- The micro-operations of the block sequencer (R30). -/
inductive MicroOp where
  | rclk (l : Bool)
  | rrst (a : Bool)
  | sample (dst : Dst)
  | tx (src : Src)
  | pix
  | ackFv
  | clrRdy
  deriving DecidableEq, Repr

/-- Why a step stops with a fault. The two faults of R200 are not among them: R202 gives their effect, so they are next
states with `err` set. -/
inductive Fault where
  /-- Raised by the block step when a command is in progress and `upc` is no index of its micro-program. R24 says this
  never holds, and `State.Inv` of Sys2Proof/Safety.lean rules it out. Safe: the machine stops where the spec gives no
  micro-operation (notes/assumptions/8.md). -/
  | noMicroOp
  deriving DecidableEq, Repr

/-- Why a step is refused. -/
inductive Refusal where
  /-- Raised by an arm of `exec` for an instruction without a meaning; no arm of this model does. Safe. -/
  | notModelled (mnemonic : String)
  deriving DecidableEq, Repr

/-- The state: the elements of R22, the environment's `txReady` (R22), the word the host holds on CMD (R35 (a)), the
parameters (R7), and the model's own `bus`, `agenda` and `draws`. -/
structure State where
  /-- The read-clock line, 1 = high (R22). -/
  rclk : Bool
  /-- The logical level of the read-pointer-reset line, 1 = asserted (R22). -/
  rrst : Bool
  /-- The byte last sampled; `none` is R23's "holds no defined value". -/
  latch : Option Byte
  /-- The high byte of the pixel being read (R22, R23). -/
  hi : Option Byte
  /-- The low byte of the pixel being read (R22, R23). -/
  lo : Option Byte
  /-- The pixel last forwarded (R22, R23). -/
  pix16 : Option Pixel
  /-- The Frame-Ready flag (R25). -/
  ready : Bool
  /-- The frame-valid pending bit (R26). -/
  fvPending : Bool
  /-- Completed drains modulo 2^W (R27). -/
  frameCount : Nat
  /-- Missed frames modulo 2^W (R28); stays 0 without the option. -/
  missedCount : Nat
  /-- The command in progress, `none` when idle (R24). -/
  cmd : Option Instr
  /-- The index of the next micro-operation (R24). -/
  upc : Nat
  /-- The sticky fault code (R200, R203). -/
  err : ErrCode
  /-- The event history, oldest first (R33). -/
  hist : List Event
  /-- `env.txReady`: the level of port TX_READY (R22). -/
  txReady : Bool
  /-- The word the host holds on CMD with CMD_VALID (R35 (a), R86). -/
  cmdPort : Option Word
  /-- The parameters of R7; no step changes them. -/
  params : Config.Params
  /-- The model's own: the bytes D[7:0] shows at the coming samples, the next one first (R66). -/
  bus : List Byte
  /-- The model's own: the moves to come, the next one first (R32). -/
  agenda : List Config.Move
  /-- The model's own: how many free values have been drawn. -/
  draws : Nat
  deriving DecidableEq, Repr

/-- The state every run starts from: what the reset step of R250 produces, with `hist = [Reset]` (R254). TX_READY may
have any level (R22); no word stands on CMD; the model's own fields are empty [DESIGN CHOICE, notes/assumptions/1.md,
3.md, 6.md, 7.md]. -/
def State.reset : State where
  rclk := true
  rrst := false
  latch := none
  hi := none
  lo := none
  pix16 := none
  ready := false
  fvPending := false
  frameCount := 0
  missedCount := 0
  cmd := none
  upc := 0
  err := .none
  hist := [.reset]
  txReady := Config.txReadyAtReset
  cmdPort := none
  params := Config.defaults
  bus := []
  agenda := []
  draws := 0

end Sys2Proof.Machine
end

