-- ==== Sys2Proof/Machine/Flags.lean ====
section
/-! DEFINITION. The flags and counters: READY, FV_PENDING, FRAME_COUNT, MISSED_COUNT and the status word
(spec/10_state.md R25 to R29, spec/60_exceptions.md R200). -/
namespace Sys2Proof.Machine

/-- Append an event to the history (R11, R33). -/
def State.emit (e : Event) (s : State) : State := { s with hist := s.hist ++ [e] }

/-- A W-bit counter plus one, modulo 2^W (R27, R28). -/
def bump (p : Config.Params) (n : Nat) : Nat := (n + 1) % 2 ^ p.frameCountWidth

/-- Count a missed frame when `lost` holds, if the option is present (R28). -/
def State.countMissed (lost : Bool) (s : State) : State :=
  if s.params.missedFrameCounter && lost then { s with missedCount := bump s.params s.missedCount } else s

/-- The environment's `FvEdge` (R34 (b)): an edge that finds the bit set merges into it. -/
def State.frameValidEdge (s : State) : State :=
  { s.countMissed s.fvPending with fvPending := true }.emit .fvEdge

/-- `ACKFV` (R30): discard the pending bit, counting a discarded edge under the option. -/
def State.ackFv (s : State) : State :=
  { (s.countMissed s.fvPending).emit (.ackFv s.fvPending) with fvPending := false }

/-- `CLRRDY` (R30): clear READY and count the completed drain, in one step. -/
def State.clearReady (s : State) : State :=
  { s with ready := false, frameCount := bump s.params s.frameCount }.emit
    (.frameDone (bump s.params s.frameCount))

/-- The fault code as it stands in `STATUS[5:4]` (R29, R200). -/
def ErrCode.code : ErrCode → BitVec 2
  | .none => 0
  | .illegalCmd => 1
  | .drainNotReady => 2

/-- `BUSY` (R24). -/
def State.busy (s : State) : Bool := s.cmd.isSome

/-- `CMD_READY` (R29): idle and not faulted. -/
def State.cmdReady (s : State) : Bool := s.cmd.isNone && decide (s.err = .none)

/-- The status word `STATUS[15:0]` (R29), from bit 15 down to bit 0. -/
def State.status (s : State) : BitVec 16 :=
  0#8 ++ BitVec.ofBool s.rrst ++ BitVec.ofBool s.rclk ++ s.err.code ++ BitVec.ofBool s.txReady ++
    BitVec.ofBool s.busy ++ BitVec.ofBool s.fvPending ++ BitVec.ofBool s.ready

end Sys2Proof.Machine
end

