-- ==== Sys2Proof/Machine/Operands.lean ====
section
/-! DEFINITION. The operand forms of the micro-operations: the destination of a SAMPLE, the source of a TX, the bytes of a
PIX (spec/10_state.md R30, spec/41_drain.md R132), and the byte the bus shows (spec/20_memory.md R66). -/
namespace Sys2Proof.Machine

/-- A free byte: any value, and a fresh one at each draw (R66, R23). -/
def State.drawByte (s : State) : Byte × State :=
  (Config.freeByte s.draws, { s with draws := s.draws + 1 })

/-- `BusSample()` (R11, R66): the next byte the environment shows; where it lists none, any byte. -/
def State.busSample (s : State) : Byte × State :=
  match s.bus with
  | v :: rest => (v, { s with bus := rest })
  | [] => s.drawByte

/-- A byte register; one that holds no defined value gives any byte (R23). No micro-program reads `hi` or `lo` before
writing it, so the draw is unreachable there. -/
def State.byteOf (r : Option Byte) (s : State) : Byte × State :=
  match r with
  | some v => (v, s)
  | none => s.drawByte

/-- The byte a `TX(src)` hands over (R30). -/
def State.source (src : Src) (s : State) : Byte × State :=
  match src with
  | .imm b => (b, s)
  | .hi => s.byteOf s.hi
  | .lo => s.byteOf s.lo

/-- Write a sampled byte to the destination of a `SAMPLE` (R30). -/
def State.store (dst : Dst) (v : Byte) (s : State) : State :=
  match dst with
  | .none => s
  | .hi => { s with hi := some v }
  | .lo => { s with lo := some v }

/-- `hi ++ lo`: the high byte in bits 15:8 (R132, R62 (b)). -/
def pixelOf (hi lo : Byte) : Pixel := hi ++ lo

end Sys2Proof.Machine
end

