-- ==== Sys2Proof/Machine/Ops.lean ====
section
/-! DEFINITION. The shared operations: the micro-operations (spec/10_state.md R30), the block step and retirement (R31),
starting a command (spec/30_encoding.md R86), raising a fault (spec/60_exceptions.md R202), the interrupt step (R210; R216:
it is complete in itself, there is no return to model) and the reset step, the one way out of a fault
(spec/70_reset_and_hazards.md R250). -/
namespace Sys2Proof.Machine

/-- `RCLK(l)`: drive the read clock; the event is recorded also when the level does not change (R30). -/
def State.driveRclk (l : Bool) (s : State) : State := { s with rclk := l }.emit (.rclk l)

/-- `RRST(a)`: drive the read-pointer-reset line (R30). -/
def State.driveRrst (a : Bool) (s : State) : State := { s with rrst := a }.emit (.rrst a)

/-- `SAMPLE(dst)`: one bus sample into the latch and into `dst` (R30). -/
def State.sampleBus (dst : Dst) (s : State) : State :=
  ({ s.busSample.2 with latch := some s.busSample.1 }.store dst s.busSample.1).emit (.sample s.busSample.1)

/-- `TX(src)`: hand one byte to the serial transport (R30); `TxWrite` is the event itself (R11). -/
def State.transmit (src : Src) (s : State) : State :=
  (s.source src).2.emit (.tx (s.source src).1)

/-- `PIX`: combine `hi` and `lo` and hand the pixel to the display sink (R30). -/
def State.putPixel (s : State) : State :=
  let h := s.byteOf s.hi
  let l := h.2.byteOf s.lo
  { l.2 with pix16 := some (pixelOf h.1 l.1) }.emit (.pix (pixelOf h.1 l.1))

/-- Only `TX` has an enabling condition (R30). -/
def MicroOp.enabled (s : State) : MicroOp → Bool
  | .rclk _ => true
  | .rrst _ => true
  | .sample _ => true
  | .tx _ => s.txReady
  | .pix => true
  | .ackFv => true
  | .clrRdy => true

/-- Perform one micro-operation (R30). -/
def MicroOp.perform (s : State) : MicroOp → State
  | .rclk l => s.driveRclk l
  | .rrst a => s.driveRrst a
  | .sample dst => s.sampleBus dst
  | .tx src => s.transmit src
  | .pix => s.putPixel
  | .ackFv => s.ackFv
  | .clrRdy => s.clearReady

/-- Advance the sequencer: retire in the step of the last micro-operation (R31). -/
def State.advance (len : Nat) (s : State) : State :=
  if s.upc + 1 = len then { s with cmd := none, upc := 0 } else { s with upc := s.upc + 1 }

/-- The block step (R31) of a command with micro-program `mu` of length `len`; a `TX` that is not enabled holds. -/
def blockStep (mu : List MicroOp) (len : Nat) (s : State) : Host.Outcome State Fault Refusal :=
  match mu[s.upc]? with
  | none => .fault .noMicroOp
  | some m => if m.enabled s then .next ((m.perform s).advance len) else .next s

/-- `raise Fault(code)` (R202): `err` and the event, and nothing else. -/
def State.raiseFault (code : ErrCode) (s : State) : State := { s with err := code }.emit (.fault code)

/-- The end of the acceptance step for a decoded command (R86): the DRAIN_NOT_READY check, then the start. It performs no
micro-operation. -/
def State.start (c : Instr) (needsReady : Bool) (s : State) : State :=
  if needsReady && !s.ready then s.raiseFault .drainNotReady else { s with cmd := some c, upc := 0 }

/-- What the block does with command `c`: nothing while faulted (R203); the end of the acceptance step while idle (R86);
the next micro-operation while `c` is in progress (R31); while another command is in progress, `c` waits (R86, R148). -/
def command (c : Instr) (needsReady : Bool) (mu : List MicroOp) (len : Nat) (s : State) :
    Host.Outcome State Fault Refusal :=
  if s.err = .none then
    match s.cmd with
    | none => .next (s.start c needsReady)
    | some d => if d = c then blockStep mu len s else .next s
  else .next s

/-- The block takes the word from CMD (R86): it is consumed once, and `Accept(w)` is recorded. -/
def State.takeWord (w : Word) (s : State) : State := { s with cmdPort := none }.emit (.accept w)

/-- The interrupt step (R210): set READY, acknowledge the source, count a missed frame under the option. It saves nothing
and changes no mode (R215). -/
def State.interruptStep (s : State) : State :=
  { (s.emit (.isr s.ready)).countMissed s.ready with ready := true, fvPending := false }

/-- The reset step (R250): every block element to its reset value; TX_READY and a word waiting on CMD stay. -/
def State.resetStep (s : State) : State :=
  { s with
    rclk := true, rrst := false
    latch := none, hi := none, lo := none, pix16 := none
    ready := false, fvPending := false
    frameCount := 0, missedCount := 0
    cmd := none, upc := 0, err := .none }.emit .reset

end Sys2Proof.Machine
end

