-- ==== Sys2Proof/Machine/Framer.lean ====
section
/-! DEFINITION. The Serial Framer commands TXB, TXSM and TXEM (spec/42_framer.md). -/
namespace Sys2Proof.Machine

/-- `mu(TXB b)` (R170). -/
def muTxb (b : Byte) : List MicroOp := [.tx (.imm b)]

/-- `mu(TXSM)` (R175): the start marker. -/
def muTxsm : List MicroOp := [.tx (.imm 0x01), .tx (.imm 0xFE)]

/-- `mu(TXEM)` (R176): the end marker. -/
def muTxem : List MicroOp := [.tx (.imm 0xFE), .tx (.imm 0x01)]

/-- TXB: transmit one byte (R170). -/
def execTxb (b : Byte) (s : State) : Host.Outcome State Fault Refusal := command (.txb b) false (muTxb b) 1 s

/-- TXSM: transmit the start marker 01 FE (R175). -/
def execTxsm (s : State) : Host.Outcome State Fault Refusal := command .txsm false muTxsm 2 s

/-- TXEM: transmit the end marker FE 01 (R176). -/
def execTxem (s : State) : Host.Outcome State Fault Refusal := command .txem false muTxem 2 s

end Sys2Proof.Machine
end

