-- ==== Sys2Proof/Machine/Reader.lean ====
section
/-! DEFINITION. The Pixel Bus Reader commands RDB and RPR (spec/40_reader.md). -/
namespace Sys2Proof.Machine

/-- `mu(RDB)` (R100): one sample, in the clock's low phase (R101). -/
def muRdb : List MicroOp := [.rclk false, .sample .none, .rclk true]

/-- `mu(RPR)` (R105): six drives, in this order (R106). -/
def muRpr : List MicroOp :=
  [.rrst true, .rclk false, .rclk true, .rclk false, .rrst false, .rclk true]

/-- RDB: read one byte from the pixel bus into the latch (R100). -/
def execRdb (s : State) : Host.Outcome State Fault Refusal := command .rdb false muRdb 3 s

/-- RPR: rewind the sensor's read pointer (R105). -/
def execRpr (s : State) : Host.Outcome State Fault Refusal := command .rpr false muRpr 6 s

end Sys2Proof.Machine
end

