-- ==== Sys2Proof/Machine/Drain.lean ====
section
/-! DEFINITION. The Frame Drain commands PXD, PXS, DRD and DRS (spec/41_drain.md). -/
namespace Sys2Proof.Machine

/-- `mu(PXD)` (R130): two reads, then the pixel to the display sink. -/
def muPxd : List MicroOp :=
  [.rclk false, .sample .hi, .rclk true, .rclk false, .sample .lo, .rclk true, .pix]

/-- `mu(PXS)` (R131): two reads, then the two raw bytes, high byte first. -/
def muPxs : List MicroOp :=
  [.rclk false, .sample .hi, .rclk true, .rclk false, .sample .lo, .rclk true, .tx .hi, .tx .lo]

/-- `P^n`: a micro-program `n` times in a row (R12). -/
def repeated (p : List MicroOp) : Nat → List MicroOp
  | 0 => []
  | n + 1 => p ++ repeated p n

/-- `mu(DRD)` (R140): rewind, N pixels to the display sink, acknowledge, clear READY. -/
def muDrd (n : Nat) : List MicroOp := muRpr ++ (repeated muPxd n ++ [.ackFv, .clrRdy])

/-- `mu(DRS)` (R145): rewind, start marker, N pixels to the serial sink, end marker, acknowledge, clear READY. -/
def muDrs (n : Nat) : List MicroOp :=
  muRpr ++ (muTxsm ++ (repeated muPxs n ++ (muTxem ++ [.ackFv, .clrRdy])))

/-- PXD: one pixel to the display sink (R130). -/
def execPxd (s : State) : Host.Outcome State Fault Refusal := command .pxd false muPxd 7 s

/-- PXS: one pixel to the serial sink (R131). -/
def execPxs (s : State) : Host.Outcome State Fault Refusal := command .pxs false muPxs 8 s

/-- DRD: drain one frame to the display sink (R140); it is taken only when READY is 1. -/
def execDrd (s : State) : Host.Outcome State Fault Refusal :=
  command .drd true (muDrd s.params.pixelCount) (7 * s.params.pixelCount + 8) s

/-- DRS: drain one frame to the serial sink in its envelope (R145); it is taken only when READY is 1. -/
def execDrs (s : State) : Host.Outcome State Fault Refusal :=
  command .drs true (muDrs s.params.pixelCount) (8 * s.params.pixelCount + 12) s

/-- `mu(c)` for every command, with N pixels to a frame (R24). -/
def mu (n : Nat) : Instr → List MicroOp
  | .rdb => muRdb
  | .rpr => muRpr
  | .pxd => muPxd
  | .pxs => muPxs
  | .txb b => muTxb b
  | .txsm => muTxsm
  | .txem => muTxem
  | .drd => muDrd n
  | .drs => muDrs n

/-- `L(c)`, the lengths of R24. -/
def muLength (n : Nat) : Instr → Nat
  | .rdb => 3
  | .rpr => 6
  | .pxd => 7
  | .pxs => 8
  | .txb _ => 1
  | .txsm => 2
  | .txem => 2
  | .drd => 7 * n + 8
  | .drs => 8 * n + 12

/-- The two drains, whose acceptance asks for READY = 1 (R86). -/
def isDrain : Instr → Bool
  | .rdb => false
  | .rpr => false
  | .pxd => false
  | .pxs => false
  | .txb _ => false
  | .txsm => false
  | .txem => false
  | .drd => true
  | .drs => true

end Sys2Proof.Machine
end

