-- ==== Sys2Proof/Machine/Dispatch.lean ====
section
/-! DEFINITION. One arm per command: what the block does with it (spec/30_encoding.md R83). -/
namespace Sys2Proof.Machine

/-- What the block does with command `i` in state `s`: the end of its acceptance while idle, its next micro-operation
while it is in progress, nothing while the block is faulted or busy with another command. -/
def exec (i : Instr) (s : State) : Host.Outcome State Fault Refusal :=
  match i with
  | .rdb => Sys2Proof.Machine.execRdb s
  | .rpr => Sys2Proof.Machine.execRpr s
  | .pxd => Sys2Proof.Machine.execPxd s
  | .pxs => Sys2Proof.Machine.execPxs s
  | .txb b => Sys2Proof.Machine.execTxb b s
  | .txsm => Sys2Proof.Machine.execTxsm s
  | .txem => Sys2Proof.Machine.execTxem s
  | .drd => Sys2Proof.Machine.execDrd s
  | .drs => Sys2Proof.Machine.execDrs s

end Sys2Proof.Machine
end

