-- ==== Sys2Proof/Machine/Agents.lean ====
section
/-! DEFINITION. The steps of the four agents (spec/10_state.md R31, R32, R34, R35, spec/30_encoding.md R86,
spec/60_exceptions.md R210): what each move does, and which move comes next. A move that its rule does not enable leaves the
state as it is [DESIGN CHOICE, notes/assumptions/2.md; safe]. -/
namespace Sys2Proof.Machine

/-- The acceptance step of word `w` (R86): `Accept(w)`, then ILLEGAL_CMD for a word that decodes to none, else the
decoded command. -/
def acceptWord (w : Word) (s : State) : Host.Outcome State Fault Refusal :=
  match decode w with
  | none => .next ((s.takeWord w).raiseFault .illegalCmd)
  | some i => exec i (s.takeWord w)

/-- The block's turn: its block step (R31) or its acceptance step (R86). Both are disabled while faulted (R203). -/
def blockMove (s : State) : Host.Outcome State Fault Refusal :=
  if s.err = .none then
    match s.cmd with
    | some c => exec c s
    | none =>
      match s.cmdPort with
      | some w => acceptWord w s
      | none => .next s
  else .next s

/-- The interrupt context's turn (R210): enabled exactly when a frame-valid edge is pending. -/
def State.interruptMove (s : State) : State := if s.fvPending then s.interruptStep else s

/-- The host presents a word (R35 (a)); while one is waiting it presents no other, since it never withdraws a word
(R236, D32). -/
def State.issueMove (w : Word) (s : State) : State :=
  match s.cmdPort with
  | none => { s with cmdPort := some w }
  | some _ => s

/-- The host reads a port: no effect on the block (R29, R35 (b)); the model's counter moves on, so that each read of a
register without a defined value is a fresh draw (R23). -/
def State.readMove (s : State) : State := { s with draws := s.draws + 1 }

/-- `SetTxReady(b)` (R34 (a)): it emits nothing. -/
def State.setTxReady (b : Bool) (s : State) : State := { s with txReady := b }

/-- One move of one agent (R32). -/
def take (m : Config.Move) (s : State) : Host.Outcome State Fault Refusal :=
  match m with
  | .block => blockMove s
  | .interrupt => .next s.interruptMove
  | .issue w => .next (s.issueMove w)
  | .read _ => .next s.readMove
  | .reset => .next s.resetStep
  | .setTxReady b => .next (s.setTxReady b)
  | .fvEdge => .next s.frameValidEdge

/-- The move that comes next: the agenda's first, and past its end any move (R32, R214). -/
def State.nextMove (s : State) : Config.Move :=
  match s.agenda with
  | m :: _ => m
  | [] => Config.freeMove s.draws

/-- The state once the move has been chosen: the agenda loses it, or the draw is counted. -/
def State.afterChoice (s : State) : State :=
  match s.agenda with
  | _ :: rest => { s with agenda := rest }
  | [] => { s with draws := s.draws + 1 }

/-- The host holds word `w` on CMD of an idle block that is not faulted, and the next turn is the block's. -/
def State.presentWord (w : Word) (s : State) : State :=
  { s with cmdPort := some w, cmd := none, upc := 0, err := .none, agenda := .block :: s.agenda }

end Sys2Proof.Machine
end

