-- ==== Sys2Proof/Machine/Step.lean ====
section
/-! DEFINITION. One step of the machine: the next move of one agent, as one atomic step of the single total order
(spec/10_state.md R32, spec/20_memory.md R69). -/
namespace Sys2Proof.Machine

/-- One step: choose the next move, then take it. -/
def step (s : State) : Host.Outcome State Fault Refusal := take s.nextMove s.afterChoice

/-- `s` with the instruction of word `w` where the next step finds it: on CMD of an idle block whose turn is next
(notes/assumptions/11.md). A word is 16 bits (R87); the bits from `nbits` up are zero. -/
def State.withFetchWord (s : State) (nbits w : Nat) : State :=
  s.presentWord (BitVec.ofNat 16 (w % 2 ^ nbits))

end Sys2Proof.Machine
end

