-- ==== Sys2Proof/Machine/Asm.lean ====
section
/-! DEFINITION. The assembler syntax (spec/30_encoding.md R88): one command a line. Blanks separate tokens, and a line with
no token gives no word [DESIGN CHOICE, notes/assumptions/18.md; safe]. -/
namespace Sys2Proof.Machine.Asm

/-- Why a line is an assembly error (R88). -/
inductive AsmError where
  | unknownMnemonic
  | missingOperand
  | unexpectedOperand
  | malformedOperand
  | operandOutOfRange
  deriving DecidableEq, Repr

/-- A blank between tokens. -/
def isBlank (c : Char) : Bool := c == ' ' || c == '\t' || c == '\r'

/-- The line up to its comment: `;` begins a comment that runs to the end of the line (R88). -/
def withoutComment : List Char → List Char
  | [] => []
  | c :: cs => if c == ';' then [] else c :: withoutComment cs

/-- The tokens of a line; `word` is the token being read. -/
def tokensFrom (word : List Char) : List Char → List (List Char)
  | [] => if word.isEmpty then [] else [word]
  | c :: cs =>
    if isBlank c then
      (if word.isEmpty then tokensFrom [] cs else word :: tokensFrom [] cs)
    else tokensFrom (word ++ [c]) cs

/-- A letter in upper case: mnemonics are case-insensitive (R88). -/
def upper (c : Char) : Char :=
  if 'a'.toNat ≤ c.toNat && c.toNat ≤ 'z'.toNat then Char.ofNat (c.toNat - 32) else c

/-- The value of a decimal digit. -/
def decDigit (c : Char) : Option Nat :=
  if '0'.toNat ≤ c.toNat && c.toNat ≤ '9'.toNat then some (c.toNat - '0'.toNat) else none

/-- The value of a hexadecimal digit, in either case. -/
def hexDigit (c : Char) : Option Nat :=
  match decDigit c with
  | some d => some d
  | none =>
    if 'A'.toNat ≤ (upper c).toNat && (upper c).toNat ≤ 'F'.toNat then some ((upper c).toNat - 'A'.toNat + 10)
    else none

/-- A decimal number, most significant digit first; `acc` is the value read so far. -/
def decimalFrom (acc : Nat) : List Char → Option Nat
  | [] => some acc
  | c :: cs =>
    match decDigit c with
    | some d => decimalFrom (10 * acc + d) cs
    | none => none

/-- The operand's byte: no truncation happens (R88). -/
def byteInRange (n : Nat) : Except AsmError Byte :=
  if n < 256 then .ok (BitVec.ofNat 8 n) else .error .operandOutOfRange

/-- The operand of `TXB`: `0x` with one or two hexadecimal digits, or a decimal number from 0 to 255 (R88). -/
def parseOperand : List Char → Except AsmError Byte
  | ['0', 'x', a] =>
    match hexDigit a with
    | some d => byteInRange d
    | none => .error .malformedOperand
  | ['0', 'x', a, b] =>
    match hexDigit a, hexDigit b with
    | some d, some e => byteInRange (16 * d + e)
    | _, _ => .error .malformedOperand
  | [] => .error .malformedOperand
  | c :: cs =>
    match decimalFrom 0 (c :: cs) with
    | some n => byteInRange n
    | none => .error .malformedOperand

/-- A mnemonic that takes no operand (R88): an operand after it is an assembly error. -/
def alone (i : Instr) (operands : List (List Char)) : Except AsmError (Option Instr) :=
  match operands with
  | [] => .ok (some i)
  | _ :: _ => .error .unexpectedOperand

/-- `TXB` takes exactly one operand (R88). -/
def withByte (operands : List (List Char)) : Except AsmError (Option Instr) :=
  match operands with
  | [] => .error .missingOperand
  | [t] => (parseOperand t).map (fun b => some (.txb b))
  | _ :: _ :: _ => .error .unexpectedOperand

/-- The command of a line's tokens; `none` for a line that has no token. -/
def parseTokens : List (List Char) → Except AsmError (Option Instr)
  | [] => .ok none
  | t :: operands =>
    let m := t.map upper
    if m = ['R', 'D', 'B'] then alone .rdb operands
    else if m = ['R', 'P', 'R'] then alone .rpr operands
    else if m = ['P', 'X', 'D'] then alone .pxd operands
    else if m = ['P', 'X', 'S'] then alone .pxs operands
    else if m = ['T', 'X', 'B'] then withByte operands
    else if m = ['T', 'X', 'S', 'M'] then alone .txsm operands
    else if m = ['T', 'X', 'E', 'M'] then alone .txem operands
    else if m = ['D', 'R', 'D'] then alone .drd operands
    else if m = ['D', 'R', 'S'] then alone .drs operands
    else .error .unknownMnemonic

/-- The command a line of source denotes (R88). -/
def parseLine (line : List Char) : Except AsmError (Option Instr) :=
  parseTokens (tokensFrom [] (withoutComment line))

/-- The command word a line assembles to (R83, R88). -/
def assembleLine (line : List Char) : Except AsmError (Option Word) :=
  (parseLine line).map (fun i => i.map encode)

/-- A hexadecimal digit, in upper case. -/
def hexChar (n : Nat) : Char :=
  if n < 10 then Char.ofNat ('0'.toNat + n) else Char.ofNat ('A'.toNat + (n - 10))

/-- A source line for a command, its operand as `0xNN` (R88). -/
def sourceOf : Instr → List Char
  | .rdb => ['R', 'D', 'B']
  | .rpr => ['R', 'P', 'R']
  | .pxd => ['P', 'X', 'D']
  | .pxs => ['P', 'X', 'S']
  | .txb b => ['T', 'X', 'B', ' ', '0', 'x', hexChar (b.toNat / 16), hexChar (b.toNat % 16)]
  | .txsm => ['T', 'X', 'S', 'M']
  | .txem => ['T', 'X', 'E', 'M']
  | .drd => ['D', 'R', 'D']
  | .drs => ['D', 'R', 'S']

end Sys2Proof.Machine.Asm
end

