-- ==== Sys2Proof/Machine/Ports.lean ====
section
/-! DEFINITION. The output ports a host or a collaborator sees (spec/10_state.md R20, R23, R29) and the frame-valid line
as an event source (spec/00_scope.md R7, spec/60_exceptions.md R212). No read has an effect on the state (R29). -/
namespace Sys2Proof.Machine

/-- The electrical level of the read-pointer-reset line: RRST_ACTIVE_LEVEL while asserted, the other level otherwise
(R7, R20, R105 (b)). -/
def State.rrstPin (s : State) : Config.Level :=
  if s.rrst then s.params.rrstActiveLevel else s.params.rrstActiveLevel.other

/-- Port RD_DATA: the latch; any byte while it holds no defined value (R23, U11). -/
def State.rdData (s : State) : Byte := s.latch.getD (Config.freeRdData s.draws)

/-- Port PIX16: the pixel register; any pixel while it holds no defined value (R23, U12). -/
def State.pix16Port (s : State) : Pixel := s.pix16.getD (Config.freePixel s.draws)

/-- Port TX_DATA: R20 gives it the byte of each `TxWrite`, which is the event `tx b`, and no value between two of them, where
every host read falls (R35 (b), R69): any byte [DESIGN CHOICE, notes/assumptions/21.md; safe]. -/
def State.txDataPort (s : State) : Byte := Config.freeTxData s.draws

/-- Port TX_WR, between two `TxWrite`s: any level [DESIGN CHOICE, notes/assumptions/21.md; safe]. -/
def State.txWrPort (s : State) : Bool := Config.freeTxWr s.draws

/-- Port PIX_WR, between two `PixOut`s: any level [DESIGN CHOICE, notes/assumptions/21.md; safe]. -/
def State.pixWrPort (s : State) : Bool := Config.freePixWr s.draws

/-- Port FRAME_COUNT[W-1:0] (R20). -/
def State.frameCountPort (s : State) : BitVec s.params.frameCountWidth :=
  BitVec.ofNat s.params.frameCountWidth s.frameCount

/-- Port MISSED_COUNT[W-1:0], present only with the option (R20, R28). -/
def State.missedCountPort (s : State) : Option (BitVec s.params.frameCountWidth) :=
  if s.params.missedFrameCounter then some (BitVec.ofNat s.params.frameCountWidth s.missedCount) else none

/-- What a host's read of a port returns, as a number, for every `out` row of R20; `none` for a port the block does not
have (R35 (b)). The level of RRST is the logical one. -/
def State.readPort (s : State) : Config.OutPort → Option Nat
  | .rclk => some s.rclk.toNat
  | .rrst => some s.rrst.toNat
  | .cmdReady => some s.cmdReady.toNat
  | .status => some s.status.toNat
  | .rdData => some s.rdData.toNat
  | .txData => some s.txDataPort.toNat
  | .txWr => some s.txWrPort.toNat
  | .pix16 => some s.pix16Port.toNat
  | .pixWr => some s.pixWrPort.toNat
  | .frameCount => some s.frameCountPort.toNat
  | .missedCount => s.missedCountPort.map BitVec.toNat

/-- Whether a change of the line FV from level `before` to level `after` is a frame-valid edge (R7, R20, R34 (b)). -/
def isFrameValidEdge (p : Config.Params) (before after : Bool) : Bool :=
  match p.fvActiveEdge with
  | .rising => !before && after
  | .falling => before && !after

end Sys2Proof.Machine
end

