-- ==== Sys2Proof/Safety.lean ====
section
/-! DEFINITION. The terms claims use: the streams and the observable output of a history (spec/10_state.md R33), the
invariants of the machine, what a history says of the state, the trace of a micro-program, runs, and the spec's named
premises (spec/20_memory.md R61, spec/70_reset_and_hazards.md R262, R266). -/
namespace Sys2Proof.Machine

/-! ### Streams of a history (R33) -/

/-- The serial byte stream, in wire order: the bytes of the `Tx` events (R33, R74). -/
def txStream (h : List Event) : List Byte :=
  h.filterMap fun
    | .tx b => some b
    | _ => none

/-- The display pixel stream: the pixels of the `Pix` events (R33, R74). -/
def pixStream (h : List Event) : List Pixel :=
  h.filterMap fun
    | .pix v => some v
    | _ => none

/-- The sequence of bus reads: the bytes of the `Sample` events (R33). -/
def sampleStream (h : List Event) : List Byte :=
  h.filterMap fun
    | .sample v => some v
    | _ => none

/-- An event of the block's observable output (R33). -/
def isOutput : Event → Bool
  | .rclk _ => true
  | .rrst _ => true
  | .tx _ => true
  | .pix _ => true
  | _ => false

/-- The block's observable output events (R33). -/
def observable (h : List Event) : List Event := h.filter isOutput

/-- An event of a command's trace as R89 compares them: `Rclk`, `Rrst`, `Sample`, `Tx`, `Pix`. -/
def isTraceEvent : Event → Bool
  | .sample _ => true
  | e => isOutput e

/-- The trace events of a history (R89). -/
def traceEvents (h : List Event) : List Event := h.filter isTraceEvent

/-- The events after the last `Accept` of a history; `acc` holds those read so far. -/
def sinceAcceptFrom (acc : List Event) : List Event → List Event
  | [] => acc
  | .accept _ :: h => sinceAcceptFrom [] h
  | e :: h => sinceAcceptFrom (acc ++ [e]) h

/-- The events after the last `Accept` of a history. -/
def sinceAccept (h : List Event) : List Event := sinceAcceptFrom [] h

/-! ### The trace of a micro-program (R30, R89) -/

/-- A micro-operation that takes a bus sample. -/
def isSample : MicroOp → Bool
  | .sample _ => true
  | _ => false

/-- How far a trace has come: its events, the byte registers, and the bytes the coming samples see. -/
structure TraceState where
  events : List Event
  hi : Option Byte
  lo : Option Byte
  bytes : List Byte
  deriving DecidableEq, Repr

/-- One event more. -/
def TraceState.add (t : TraceState) (e : Event) : TraceState := { t with events := t.events ++ [e] }

/-- The trace after one more micro-operation (R30). A sample with no byte left, or a read of a register before it is
written, adds nothing. -/
def TraceState.next (t : TraceState) : MicroOp → TraceState
  | .rclk l => t.add (.rclk l)
  | .rrst a => t.add (.rrst a)
  | .sample dst =>
    match t.bytes with
    | [] => t
    | v :: rest =>
      match dst with
      | .none => { t with bytes := rest }.add (.sample v)
      | .hi => { t with bytes := rest, hi := some v }.add (.sample v)
      | .lo => { t with bytes := rest, lo := some v }.add (.sample v)
  | .tx (.imm b) => t.add (.tx b)
  | .tx .hi =>
    match t.hi with
    | some v => t.add (.tx v)
    | none => t
  | .tx .lo =>
    match t.lo with
    | some v => t.add (.tx v)
    | none => t
  | .pix =>
    match t.hi, t.lo with
    | some h, some l => t.add (.pix (h ++ l))
    | _, _ => t
  | .ackFv => t
  | .clrRdy => t

/-- The end of a micro-program's trace, when its samples see `bytes`. -/
def traceEnd (p : List MicroOp) (bytes : List Byte) : TraceState :=
  p.foldl TraceState.next { events := [], hi := none, lo := none, bytes := bytes }

/-- The trace of a micro-program: its `Rclk`, `Rrst`, `Sample`, `Tx` and `Pix` events when its samples see `bytes` (R89). -/
def traceOf (p : List MicroOp) (bytes : List Byte) : List Event := (traceEnd p bytes).events

/-- The pixels of a sequence of bytes, two bytes each, high byte first (R62). -/
def pixelsOf : List Byte → List Pixel
  | h :: l :: rest => (h ++ l) :: pixelsOf rest
  | _ => []

/-- The serial frame envelope around a payload (R177). -/
def envelope (payload : List Byte) : List Byte := [0x01, 0xFE] ++ payload ++ [0xFE, 0x01]

/-! ### Invariants -/

/-- The levels of RCLK and RRST after a micro-operation. -/
def linesStep (l : Bool × Bool) : MicroOp → Bool × Bool
  | .rclk c => (c, l.2)
  | .rrst a => (l.1, a)
  | _ => l

/-- The levels of RCLK and RRST after micro-operations performed from the idle levels of R102. -/
def linesAfter (p : List MicroOp) : Bool × Bool := p.foldl linesStep (true, false)

/-- What the block has performed of the command in progress; nothing when idle. -/
def State.performed (s : State) : List MicroOp :=
  match s.cmd with
  | none => []
  | some c => (mu s.params.pixelCount c).take s.upc

/-- The sequencer position is legal (R24). -/
def State.Positioned (s : State) : Prop :=
  match s.cmd with
  | none => s.upc = 0
  | some c => s.upc < muLength s.params.pixelCount c

/-- The lines have the levels that the performed micro-operations leave; the idle levels when idle (R102). -/
def State.LinesDriven (s : State) : Prop := (s.rclk, s.rrst) = linesAfter s.performed

/-- A byte register that the performed micro-operations have written holds a value (R23). -/
def State.BytesHeld (s : State) : Prop :=
  (.sample .hi ∈ s.performed → s.hi.isSome) ∧ (.sample .lo ∈ s.performed → s.lo.isSome)

/-- The counters fit W bits, and without the option nothing is counted as missed (R27, R28). -/
def State.CountersFit (s : State) : Prop :=
  s.frameCount < 2 ^ s.params.frameCountWidth ∧ s.missedCount < 2 ^ s.params.frameCountWidth ∧
    (s.params.missedFrameCounter = false → s.missedCount = 0)

/-- While a drain is in progress READY is 1: acceptance asked for it, and only the drain's last micro-operation clears it
(R25, R86). -/
def State.DrainReady (s : State) : Prop := ∀ c, s.cmd = some c → isDrain c = true → s.ready = true

/-- The machine's invariant. -/
structure State.Inv (s : State) : Prop where
  /-- `PIXEL_COUNT` >= 1 (R7). -/
  params : s.params.wellFormed = true
  /-- The sequencer position is legal (R24). -/
  positioned : s.Positioned
  /-- A faulted block has no command in progress (R202). -/
  faultedIdle : s.err ≠ .none → s.cmd = none
  /-- The lines have the levels the micro-operations drove (R102). -/
  lines : s.LinesDriven
  /-- The byte registers written in this command hold values (R23). -/
  bytes : s.BytesHeld
  /-- The counters fit (R27, R28). -/
  counters : s.CountersFit
  /-- A drain in progress has READY = 1 (R25, R86). -/
  drainReady : s.DrainReady

/-- The part of the state that the event history records. -/
structure Account where
  rclk : Bool
  rrst : Bool
  latch : Option Byte
  pix16 : Option Pixel
  ready : Bool
  fvPending : Bool
  frameCount : Nat
  missedCount : Nat
  err : ErrCode
  deriving DecidableEq, Repr

/-- The account at reset (R250). -/
def Account.initial : Account where
  rclk := true
  rrst := false
  latch := none
  pix16 := none
  ready := false
  fvPending := false
  frameCount := 0
  missedCount := 0
  err := .none

/-- One more missed frame, if the option is present and `lost` holds (R28). -/
def Account.count (p : Config.Params) (lost : Bool) (a : Account) : Nat :=
  if p.missedFrameCounter && lost then (a.missedCount + 1) % 2 ^ p.frameCountWidth else a.missedCount

/-- What one event says of the account (R30, R33, R34, R202, R210, R250). -/
def Account.after (p : Config.Params) (a : Account) : Event → Account
  | .accept _ => a
  | .fault c => { a with err := c }
  | .rclk l => { a with rclk := l }
  | .rrst l => { a with rrst := l }
  | .sample v => { a with latch := some v }
  | .tx _ => a
  | .pix v => { a with pix16 := some v }
  | .ackFv pending => { a with fvPending := false, missedCount := a.count p pending }
  | .frameDone n => { a with ready := false, frameCount := n }
  | .fvEdge => { a with fvPending := true, missedCount := a.count p a.fvPending }
  | .isr wasReady => { a with ready := true, fvPending := false, missedCount := a.count p wasReady }
  | .reset => Account.initial

/-- The account of the state. -/
def State.account (s : State) : Account where
  rclk := s.rclk
  rrst := s.rrst
  latch := s.latch
  pix16 := s.pix16
  ready := s.ready
  fvPending := s.fvPending
  frameCount := s.frameCount
  missedCount := s.missedCount
  err := s.err

/-- The history, read from its start, gives the account of the state: no change of these elements goes unrecorded. -/
def State.Recorded (s : State) : Prop :=
  s.account = s.hist.foldl (Account.after s.params) Account.initial

/-- The drains a history completed since its last reset: its `FrameDone` events (R27). -/
def completedDrains (h : List Event) : Nat :=
  h.foldl (fun n e =>
    match e with
    | .frameDone _ => n + 1
    | .reset => 0
    | _ => n) 0

/-- The frame counter counts the completed drains modulo 2^W (R27). -/
def State.CountsDrains (s : State) : Prop :=
  s.frameCount = completedDrains s.hist % 2 ^ s.params.frameCountWidth

/-- The bytes sampled since the last `Accept`. -/
def State.sampled (s : State) : List Byte := sampleStream (sinceAccept s.hist)

/-- While a command is in progress, what the block did since its `Accept` is the trace of the micro-operations it has
performed, and the byte registers hold what that trace stored (R30, R31, R147). -/
structure State.Traced (s : State) : Prop where
  /-- One sampled byte for each sample performed. -/
  counted : s.cmd ≠ none → s.performed.countP isSample = s.sampled.length
  /-- The trace events since the `Accept`. -/
  events : s.cmd ≠ none → traceEvents (sinceAccept s.hist) = traceOf s.performed s.sampled
  /-- The high byte. -/
  hi : s.cmd ≠ none → ∀ v, (traceEnd s.performed s.sampled).hi = some v → s.hi = some v
  /-- The low byte. -/
  lo : s.cmd ≠ none → ∀ v, (traceEnd s.performed s.sampled).lo = some v → s.lo = some v

/-! ### What a command does at a position of its micro-program -/

/-- Command `c` is in progress, unfaulted, with micro-operation `k` next (R24, R31). -/
def State.At (s : State) (c : Instr) (k : Nat) : Prop := s.err = .none ∧ s.cmd = some c ∧ s.upc = k

/-- The block can accept a word: idle and unfaulted (R86). -/
def State.CanAccept (s : State) : Prop := s.err = .none ∧ s.cmd = none

/-- Command `c` answers `s` with one bus sample: the next byte the environment shows, or any byte where it lists none
(R66). `write v` is what a sample of `v` writes beside that. -/
def Samples (c : Instr) (s : State) (write : Byte → State → State) : Prop :=
  (∀ v rest, s.bus = v :: rest → exec c s = .next (write v { s with bus := rest })) ∧
    (s.bus = [] → ∃ v, exec c s = .next (write v { s with draws := s.draws + 1 }))

/-- The six drives of the rewind (R105) at positions 0 to 5 of command `c`; `last` is the sequencer after the sixth. -/
def RewindSteps (c : Instr) (s : State) (last : State → State) : Prop :=
  (s.At c 0 → exec c s = .next { s with rrst := true, hist := s.hist ++ [.rrst true], upc := 1 }) ∧
  (s.At c 1 → exec c s = .next { s with rclk := false, hist := s.hist ++ [.rclk false], upc := 2 }) ∧
  (s.At c 2 → exec c s = .next { s with rclk := true, hist := s.hist ++ [.rclk true], upc := 3 }) ∧
  (s.At c 3 → exec c s = .next { s with rclk := false, hist := s.hist ++ [.rclk false], upc := 4 }) ∧
  (s.At c 4 → exec c s = .next { s with rrst := false, hist := s.hist ++ [.rrst false], upc := 5 }) ∧
  (s.At c 5 → exec c s = .next (last { s with rclk := true, hist := s.hist ++ [.rclk true] }))

/-- The two bus reads of a pixel (R130, R131) at positions `b` to `b + 5` of command `c`. -/
def PixelReadSteps (c : Instr) (b : Nat) (s : State) : Prop :=
  (s.At c b → exec c s = .next { s with rclk := false, hist := s.hist ++ [.rclk false], upc := b + 1 }) ∧
  (s.At c (b + 1) → Samples c s fun v u =>
    { u with latch := some v, hi := some v, hist := u.hist ++ [.sample v], upc := b + 2 }) ∧
  (s.At c (b + 2) → exec c s = .next { s with rclk := true, hist := s.hist ++ [.rclk true], upc := b + 3 }) ∧
  (s.At c (b + 3) → exec c s = .next { s with rclk := false, hist := s.hist ++ [.rclk false], upc := b + 4 }) ∧
  (s.At c (b + 4) → Samples c s fun v u =>
    { u with latch := some v, lo := some v, hist := u.hist ++ [.sample v], upc := b + 5 }) ∧
  (s.At c (b + 5) → exec c s = .next { s with rclk := true, hist := s.hist ++ [.rclk true], upc := b + 6 })

/-- Command `c` forwards the pixel (R130): `hi ++ lo`; where a byte register holds no value, which no run reaches (R23), any
pixel. `next` is the sequencer after it. -/
def ForwardsPixel (c : Instr) (s : State) (next : State → State) : Prop :=
  ∃ v d, exec c s = .next (next { s with pix16 := some v, draws := d, hist := s.hist ++ [.pix v] }) ∧
    ∀ h l, s.hi = some h → s.lo = some l → v = h ++ l ∧ d = s.draws

/-- Command `c` transmits the byte of register `r` (R131); where the register holds no value, which no run reaches (R23), any
byte. `next` is the sequencer after it. -/
def TransmitsByte (c : Instr) (r : Option Byte) (s : State) (next : State → State) : Prop :=
  ∃ v d, exec c s = .next (next { s with draws := d, hist := s.hist ++ [.tx v] }) ∧
    ∀ b, r = some b → v = b ∧ d = s.draws

/-- The command retires (R31). -/
def retire (s : State) : State := { s with cmd := none, upc := 0 }

/-- The sequencer goes on at position `k` (R31). -/
def goOn (k : Nat) (s : State) : State := { s with upc := k }

/-- The step to come finds a frame that will never start a drain of its own, in one of the three cases of R28: an edge that
merges into a pending one, an interrupt step that finds READY set, an `ACKFV` that discards a pending edge. -/
def State.MissesFrame (s : State) : Prop :=
  (s.nextMove = .fvEdge ∧ s.fvPending = true) ∨
    (s.nextMove = .interrupt ∧ s.fvPending = true ∧ s.ready = true) ∨
    (s.nextMove = .block ∧ s.err = .none ∧ s.fvPending = true ∧
      ∃ c, s.cmd = some c ∧ (mu s.params.pixelCount c)[s.upc]? = some .ackFv)

/-! ### The events of a drain (R140, R145) -/

/-- The events of a rewind (R105). -/
def rewindEvents : List Event :=
  [.rrst true, .rclk false, .rclk true, .rclk false, .rrst false, .rclk true]

/-- The events of a pixel's two reads (R130, R131). -/
def readEvents (h l : Byte) : List Event :=
  [.rclk false, .sample h, .rclk true, .rclk false, .sample l, .rclk true]

/-- The events of pixels to the display sink, two bytes to a pixel (R130). -/
def displayEvents : List Byte → List Event
  | h :: l :: rest => readEvents h l ++ [.pix (h ++ l)] ++ displayEvents rest
  | _ => []

/-- The events of pixels to the serial sink, two bytes to a pixel (R131). -/
def serialEvents : List Byte → List Event
  | h :: l :: rest => readEvents h l ++ [.tx h, .tx l] ++ serialEvents rest
  | _ => []

/-! ### Runs -/

/-- A transmit stall (R204): a `TX` is next and TX_READY is 0, so the block has no enabled step. -/
def State.Stalled (s : State) : Prop :=
  s.err = .none ∧ s.txReady = false ∧
    ∃ c src, s.cmd = some c ∧ (mu s.params.pixelCount c)[s.upc]? = some (.tx src)

/-- The block is waiting at a `TX`, whatever the level of TX_READY (R266). -/
def State.AtTx (s : State) : Prop :=
  s.err = .none ∧ ∃ c src, s.cmd = some c ∧ (mu s.params.pixelCount c)[s.upc]? = some (.tx src)

/-- A run is over (D30): no word waits, no command is in progress, no fault, no edge pending. That the host has no further
word to issue is about the moves to come. -/
def State.Final (s : State) : Prop :=
  s.cmdPort = none ∧ s.cmd = none ∧ s.err = .none ∧ s.fvPending = false

/-- `k` steps of the machine, as the host runs them. -/
def run (k : Nat) (s : State) : Host.Outcome State Fault Refusal := Host.Core.run Sys2Proof.core k s

/-- An endless run under a schedule: `sched k` is the move that leads from `r k` to `r (k + 1)`. Any schedule is allowed
(R32). -/
def IsRun (sched : Nat → Config.Move) (r : Nat → State) : Prop :=
  ∀ k, take (sched k) (r k) = .next (r (k + 1))

/-- The block has an enabled step: its block step (R31) or its acceptance step (R86). -/
def State.BlockEnabled (s : State) : Prop :=
  s.err = .none ∧
    ((∃ c m, s.cmd = some c ∧ (mu s.params.pixelCount c)[s.upc]? = some m ∧ m.enabled s = true) ∨
      (s.cmd = none ∧ s.cmdPort ≠ none))

/-- Weak fairness toward the block sequencer (R266): if it has an enabled step from some point on, it takes its turn. -/
def FairToBlock (sched : Nat → Config.Move) (r : Nat → State) : Prop :=
  ∀ k, (∀ j, k ≤ j → (r j).BlockEnabled) → ∃ j, k ≤ j ∧ sched j = .block

/-- Weak fairness toward the interrupt context (R266): if its step is enabled from some point on, it takes it. -/
def FairToInterrupt (sched : Nat → Config.Move) (r : Nat → State) : Prop :=
  ∀ k, (∀ j, k ≤ j → (r j).fvPending = true) → ∃ j, k ≤ j ∧ sched j = .interrupt

/-- `TxEventuallyReady` (R266): whenever the block waits at a `TX`, TX_READY is eventually 1 and stays 1 until the block's
next turn. -/
def TxEventuallyReady (sched : Nat → Config.Move) (r : Nat → State) : Prop :=
  ∀ k, (r k).AtTx →
    ∃ j, k ≤ j ∧ ∀ l, j ≤ l → (∀ i, j ≤ i → i < l → sched i ≠ .block) → (r l).txReady = true

/-- `FiniteEdges` (R266): the environment takes finitely many `FvEdge` steps. -/
def FiniteEdges (sched : Nat → Config.Move) : Prop := ∃ k, ∀ j, k ≤ j → sched j ≠ .fvEdge

/-- The host asserts no RST. -/
def NoReset (sched : Nat → Config.Move) : Prop := ∀ k, sched k ≠ .reset

/-- Command `c` is accepted by step `a` of a run (R86). -/
def AcceptedAt (c : Instr) (sched : Nat → Config.Move) (r : Nat → State) (a : Nat) : Prop :=
  sched a = .block ∧ (r a).CanAccept ∧ (r a).cmdPort = some (encode c) ∧ (isDrain c = true → (r a).ready = true)

/-- Command `c`, accepted by step `a`, is in progress up to step `b`, which retires it (R31). -/
def RetiredBy (c : Instr) (r : Nat → State) (a b : Nat) : Prop :=
  (∀ k, a < k → k ≤ b → (r k).cmd = some c) ∧ (r (b + 1)).cmd = none

/-- How many of the steps `a`, ..., `a + n - 1` are the block's turn. -/
def blockTurns (sched : Nat → Config.Move) (a n : Nat) : Nat :=
  (List.range n).countP fun k => sched (a + k) == .block

/-! ### The sensor (R61, R260, R262) -/

/-- What the block's drives say of the sensor's read pointer (R61). -/
inductive Rewind where
  /-- No `RPR` micro-sequence has completed, one was cut short, or a reset has hit a read since: any value until the next
  `RPR` (R252 (b), U22). -/
  | unknown
  /-- The first `k` drives of an `RPR` micro-sequence have been made. -/
  | rewinding (k : Nat)
  /-- An `RPR` micro-sequence has completed, no other one has begun since, and `j` samples have been taken since; `clock` is
  the level of RCLK. -/
  | inOrder (clock : Bool) (j : Nat)
  deriving DecidableEq, Repr

/-- The level of RCLK after a drive that has this event. -/
def clockAfter (clock : Bool) : Event → Bool
  | .rclk l => l
  | _ => clock

/-- A drive of RCLK or RRST: `RRST(1)` begins a rewind, the drives of R105 in their order complete it and park the clock
high. -/
def Rewind.drive (p : Rewind) (e : Event) : Rewind :=
  if e = .rrst true then .rewinding 1
  else
    match p with
    | .unknown => .unknown
    | .inOrder clock j => .inOrder (clockAfter clock e) j
    | .rewinding k =>
      if rewindEvents[k]? = some e then
        (if k + 1 = rewindEvents.length then .inOrder true 0 else .rewinding (k + 1))
      else .unknown

/-- A sample: the pointer of a rewound sensor has advanced by one byte. -/
def Rewind.sampled : Rewind → Rewind
  | .unknown => .unknown
  | .rewinding _ => .unknown
  | .inOrder clock j => .inOrder clock (j + 1)

/-- A reset sets RCLK high and RRST inactive (R250): it moves no line of an idle reader, whose pointer stays where it is; in a
rewind or in a read's low phase it is a stray edge (R252 (b), U22) [DEDUCED, notes/assumptions/23.md; safe]. -/
def Rewind.reset : Rewind → Rewind
  | .unknown => .unknown
  | .rewinding _ => .unknown
  | .inOrder true j => .inOrder true j
  | .inOrder false _ => .unknown

/-- What one event says of the sensor's read pointer. -/
def Rewind.after (p : Rewind) : Event → Rewind
  | .rclk l => p.drive (.rclk l)
  | .rrst a => p.drive (.rrst a)
  | .sample _ => p.sampled
  | .reset => p.reset
  | .accept _ => p
  | .fault _ => p
  | .tx _ => p
  | .pix _ => p
  | .ackFv _ => p
  | .frameDone _ => p
  | .fvEdge => p
  | .isr _ => p

/-- What a history says of the sensor's read pointer. -/
def rewindOf (h : List Event) : Rewind := h.foldl Rewind.after .unknown

/-- The sensor along a run, which the block never sees (R61). -/
structure Sensor where
  /-- `frame k i` is byte `i` of the frame the sensor holds when step `k` is taken. -/
  frame : Nat → Nat → Byte
  /-- The bus meets its timing if step `k` takes a sample (R260). -/
  stable : Nat → Prop

/-- `SensorInOrder` (R61): where the bus meets its timing, the `j`-th sample after a completed `RPR` micro-sequence, with no
other `RPR` between and no reset in the midst of a read (U22), observes byte `j` of the 2N bytes of the frame the sensor
holds. -/
def SensorInOrder (z : Sensor) (r : Nat → State) : Prop :=
  ∀ k clock j v, z.stable k → rewindOf (r k).hist = .inOrder clock j → j < 2 * (r k).params.pixelCount →
    (r (k + 1)).hist = (r k).hist ++ [.sample v] → v = z.frame k j

/-- Bus stability (R260): the bus meets its timing at every sample. -/
def BusStability (z : Sensor) : Prop := ∀ k, z.stable k

/-- A drain has begun its `RPR` and has not taken its last sample (R262). That the time "between the drain's `RPR` and its
last `SAMPLE`" begins with the first drive of the `RPR` is the model's reading [DESIGN CHOICE, notes/assumptions/22.md;
safe]. -/
def State.Reading (s : State) : Prop :=
  (∃ c, s.cmd = some c ∧ isDrain c = true) ∧ 0 < s.upc ∧
    s.performed.countP isSample < 2 * s.params.pixelCount

/-- `NoOverwriteDuringDrain` (R262): from a drain's `RPR` to its last sample the sensor does not change the frame, whatever
the other agents do and however long the block stalls meanwhile. -/
def NoOverwriteDuringDrain (z : Sensor) (r : Nat → State) : Prop :=
  ∀ k, (r k).Reading → (r (k + 1)).Reading → z.frame (k + 1) = z.frame k

end Sys2Proof.Machine
end

