-- ==== Sys2Proof/Certificates/Slice0/Obligations.lean ====
section
/-! DEFINITION. The statements for the provers. Each docstring names the rules of spec/ it formalises. -/
open Sys2Proof Sys2Proof.Machine

/-! ### Encoding -/

/-- R83, R85: decoding the word of a well-formed command gives it back, `TXB` with every operand. -/
def Obligations.DecodeInvertsEncode : Prop :=
  ∀ i : Instr, i.wellFormed = true → decode (encode i) = some i

/-- R83, R85: a word that decodes to a command is that command's one word, so no bit of a word is dropped. -/
def Obligations.EncodeInvertsDecode : Prop :=
  ∀ (w : Word) (i : Instr), decode w = some i → encode i = w

/-- R85, word for word: the eight fixed words, `TXB` for every word with OP 0x10, none otherwise. -/
def Obligations.DecodeAnswersEveryWord : Prop :=
  ∀ w : Word, decode w =
    if w = 0x0100 then some .rdb
    else if w = 0x0200 then some .rpr
    else if w = 0x0300 then some .pxd
    else if w = 0x0400 then some .pxs
    else if w = 0x1100 then some .txsm
    else if w = 0x1200 then some .txem
    else if w = 0x2000 then some .drd
    else if w = 0x2100 then some .drs
    else if w.extractLsb' 8 8 = (0x10 : Byte) then some (.txb (w.extractLsb' 0 8))
    else none

/-- The words of 30_encoding.md R83, written out. -/
def Obligations.SpecWordsDecode : Prop :=
  decode 0x0100 = some .rdb ∧ decode 0x0200 = some .rpr ∧ decode 0x0300 = some .pxd ∧
  decode 0x0400 = some .pxs ∧ decode 0x105A = some (.txb 0x5A) ∧ decode 0x1100 = some .txsm ∧
  decode 0x1200 = some .txem ∧ decode 0x2000 = some .drd ∧ decode 0x2100 = some .drs ∧
  decode 0x0101 = none ∧ decode 0x0500 = none ∧ decode 0x0000 = none ∧ decode 0xFFFF = none

/-! ### Acceptance and the step -/

/-- R86, R31: with a word on CMD of an idle, unfaulted block, the block's turn takes the word, records `Accept(w)`, and is
exec of the decoded command there; an illegal word raises ILLEGAL_CMD instead. While a command is in progress, the
block's turn is exec of that command. -/
def Obligations.StepRunsTheDecodedCommand : Prop :=
  ∀ (s : State) (ms : List Config.Move), s.err = .none → s.agenda = .block :: ms →
    (∀ w, s.cmd = none → s.cmdPort = some w →
      (∀ i, decode w = some i →
        step s = exec i { s with agenda := ms, cmdPort := none, hist := s.hist ++ [.accept w] }) ∧
      (decode w = none →
        step s = .next { s with
          agenda := ms, cmdPort := none, err := .illegalCmd,
          hist := s.hist ++ [.accept w, .fault .illegalCmd] })) ∧
    (∀ c, s.cmd = some c → step s = exec c { s with agenda := ms })

/-- The model's way of placing a command word (notes/assumptions/11.md): the next step accepts it and runs its command. -/
def Obligations.PlacedWordIsExecutedNext : Prop :=
  ∀ (s : State) (w : Nat) (i : Instr), decode (BitVec.ofNat 16 w) = some i → w < 2 ^ 16 →
    step (s.withFetchWord 16 w) =
      exec i { s with
        cmd := none, upc := 0, err := .none, cmdPort := none,
        hist := s.hist ++ [.accept (BitVec.ofNat 16 w)] }

/-- R86: a command other than a drain, and a drain while READY is 1, is started at its first micro-operation, and no
micro-operation is performed. -/
def Obligations.AcceptanceStartsTheCommand : Prop :=
  ∀ (i : Instr) (s : State), s.CanAccept → (i = .drd ∨ i = .drs → s.ready = true) →
    exec i s = .next { s with cmd := some i, upc := 0 }

/-- R86, R200, R202: a drain accepted while READY is 0 raises DRAIN_NOT_READY, and nothing else changes. -/
def Obligations.DrainWithoutReadyFaults : Prop :=
  ∀ (i : Instr) (s : State), (i = .drd ∨ i = .drs) → s.CanAccept → s.ready = false →
    exec i s = .next { s with err := .drainNotReady, hist := s.hist ++ [.fault .drainNotReady] }

/-- R86, R148: while another command is in progress a command waits, and so does a word on CMD. That the waiting word stays
whatever the host does is the model's choice after R236 and D32 (notes/assumptions/7.md, unsafe): R86 lets it wait "until
the host withdraws it", and the model has no such move. -/
def Obligations.BusyBlockTakesNoCommand : Prop :=
  (∀ (i d : Instr) (s : State), s.cmd = some d → d ≠ i → exec i s = .next s) ∧
  (∀ (s t : State) (d : Instr) (w : Word), s.cmd = some d → s.cmdPort = some w → step s = .next t →
    t.cmdPort = some w)

/-- R31, for every command: the enabled micro-operation at `upc` is performed and the sequencer advances or retires in the
same step; a `TX` holds while TX_READY is 0. A faulted block, and an idle one with no word on CMD, does nothing. -/
def Obligations.BlockStepPerformsAndAdvances : Prop :=
  (∀ s : State, s.err ≠ .none ∨ (s.cmd = none ∧ s.cmdPort = none) → blockMove s = .next s) ∧
  (∀ (c : Instr) (s : State), s.err = .none → s.cmd = some c → blockMove s = exec c s) ∧
  ∀ (c : Instr) (s : State) (m : MicroOp),
    s.err = .none → s.cmd = some c → (mu s.params.pixelCount c)[s.upc]? = some m →
    (s.txReady = true ∨ (∀ src, m ≠ .tx src) →
      (s.upc + 1 = muLength s.params.pixelCount c →
        exec c s = .next { m.perform s with cmd := none, upc := 0 }) ∧
      (s.upc + 1 ≠ muLength s.params.pixelCount c →
        exec c s = .next { m.perform s with upc := s.upc + 1 })) ∧
    (∀ src, m = .tx src → s.txReady = false → exec c s = .next s)

/-- R30: the effect of each micro-operation, with every operand form, and its enabling condition; where the environment
lists no byte for a sample, any byte (R66). -/
def Obligations.MicroOperationsHaveTheirEffects : Prop :=
  ∀ s : State,
    (∀ m : MicroOp, m.enabled s = true ↔ (s.txReady = true ∨ ∀ src, m ≠ .tx src)) ∧
    (∀ l, (MicroOp.rclk l).perform s = { s with rclk := l, hist := s.hist ++ [.rclk l] }) ∧
    (∀ a, (MicroOp.rrst a).perform s = { s with rrst := a, hist := s.hist ++ [.rrst a] }) ∧
    (∀ v rest, s.bus = v :: rest →
      (MicroOp.sample .none).perform s =
        { s with bus := rest, latch := some v, hist := s.hist ++ [.sample v] } ∧
      (MicroOp.sample .hi).perform s =
        { s with bus := rest, latch := some v, hi := some v, hist := s.hist ++ [.sample v] } ∧
      (MicroOp.sample .lo).perform s =
        { s with bus := rest, latch := some v, lo := some v, hist := s.hist ++ [.sample v] }) ∧
    (s.bus = [] → ∃ v,
      (MicroOp.sample .none).perform s =
        { s with draws := s.draws + 1, latch := some v, hist := s.hist ++ [.sample v] } ∧
      (MicroOp.sample .hi).perform s =
        { s with draws := s.draws + 1, latch := some v, hi := some v, hist := s.hist ++ [.sample v] } ∧
      (MicroOp.sample .lo).perform s =
        { s with draws := s.draws + 1, latch := some v, lo := some v, hist := s.hist ++ [.sample v] }) ∧
    (∀ b, (MicroOp.tx (.imm b)).perform s = { s with hist := s.hist ++ [.tx b] }) ∧
    (∀ b, s.hi = some b → (MicroOp.tx .hi).perform s = { s with hist := s.hist ++ [.tx b] }) ∧
    (∀ b, s.lo = some b → (MicroOp.tx .lo).perform s = { s with hist := s.hist ++ [.tx b] }) ∧
    (∀ h l, s.hi = some h → s.lo = some l →
      MicroOp.pix.perform s = { s with pix16 := some (h ++ l), hist := s.hist ++ [.pix (h ++ l)] }) ∧
    (MicroOp.ackFv.perform s = { s with
      missedCount :=
        if s.params.missedFrameCounter = true ∧ s.fvPending = true then
          (s.missedCount + 1) % 2 ^ s.params.frameCountWidth
        else s.missedCount
      hist := s.hist ++ [.ackFv s.fvPending], fvPending := false }) ∧
    (MicroOp.clrRdy.perform s = { s with
      ready := false, frameCount := (s.frameCount + 1) % 2 ^ s.params.frameCountWidth,
      hist := s.hist ++ [.frameDone ((s.frameCount + 1) % 2 ^ s.params.frameCountWidth)] })

/-- R146: where the micro-operations of a drain stand, and which samples a pixel's are. -/
def Obligations.DrainIndexMap : Prop :=
  ∀ n : Nat,
    (∀ i k, i < n → k < 7 → (mu n .drd)[6 + 7 * i + k]? = (mu n .pxd)[k]?) ∧
    (mu n .drd)[7 * n + 6]? = some .ackFv ∧ (mu n .drd)[7 * n + 7]? = some .clrRdy ∧
    (∀ i k, i < n → k < 8 → (mu n .drs)[8 + 8 * i + k]? = (mu n .pxs)[k]?) ∧
    (mu n .drs)[6]? = some (.tx (.imm 0x01)) ∧ (mu n .drs)[7]? = some (.tx (.imm 0xFE)) ∧
    (mu n .drs)[8 * n + 8]? = some (.tx (.imm 0xFE)) ∧ (mu n .drs)[8 * n + 9]? = some (.tx (.imm 0x01)) ∧
    (mu n .drs)[8 * n + 10]? = some .ackFv ∧ (mu n .drs)[8 * n + 11]? = some .clrRdy ∧
    (∀ i, i < n →
      ((mu n .drd).take (6 + 7 * i)).countP isSample = 2 * i ∧
      ((mu n .drs).take (8 + 8 * i)).countP isSample = 2 * i)

/-- R23: in every micro-program, `hi` and `lo` are written by a sample before they are read. -/
def Obligations.BytesAreWrittenBeforeRead : Prop :=
  ∀ (n k : Nat) (c : Instr),
    ((mu n c)[k]? = some (.tx .hi) → .sample .hi ∈ (mu n c).take k) ∧
    ((mu n c)[k]? = some (.tx .lo) → .sample .lo ∈ (mu n c).take k) ∧
    ((mu n c)[k]? = some .pix → .sample .hi ∈ (mu n c).take k ∧ .sample .lo ∈ (mu n c).take k)

/-! ### What each command does at each position -/

/-- R100: RDB drives RCLK low, samples the bus into the latch, drives RCLK high and retires. -/
def Obligations.RdbSteps : Prop :=
  ∀ s : State,
    (s.At .rdb 0 → exec .rdb s = .next { s with rclk := false, hist := s.hist ++ [.rclk false], upc := 1 }) ∧
    (s.At .rdb 1 → Samples .rdb s fun v u =>
      { u with latch := some v, hist := u.hist ++ [.sample v], upc := 2 }) ∧
    (s.At .rdb 2 → exec .rdb s = .next { s with
      rclk := true, hist := s.hist ++ [.rclk true], cmd := none, upc := 0 })

/-- R105, R106: RPR makes its six drives in their order, one a step, and retires with the sixth. -/
def Obligations.RprSteps : Prop := ∀ s : State, RewindSteps .rpr s retire

/-- R130: PXD reads two bytes, high byte first, and forwards their concatenation. -/
def Obligations.PxdSteps : Prop :=
  ∀ s : State, PixelReadSteps .pxd 0 s ∧ (s.At .pxd 6 → ForwardsPixel .pxd s retire)

/-- R131: PXS reads two bytes and, with TX_READY = 1, transmits them, high byte first. -/
def Obligations.PxsSteps : Prop :=
  ∀ s : State, PixelReadSteps .pxs 0 s ∧
    (s.At .pxs 6 → s.txReady = true → TransmitsByte .pxs s.hi s (goOn 7)) ∧
    (s.At .pxs 7 → s.txReady = true → TransmitsByte .pxs s.lo s retire)

/-- R170: with TX_READY = 1, TXB transmits its byte, whatever it is, and retires. -/
def Obligations.TxbTransmits : Prop :=
  ∀ (b : Byte) (s : State), s.At (.txb b) 0 → s.txReady = true →
    exec (.txb b) s = .next { s with hist := s.hist ++ [.tx b], cmd := none, upc := 0 }

/-- R175, R176: with TX_READY = 1, TXSM transmits 01 and FE, TXEM transmits FE and 01. -/
def Obligations.MarkersTransmit : Prop :=
  ∀ s : State, s.txReady = true →
    (s.At .txsm 0 → exec .txsm s = .next { s with hist := s.hist ++ [.tx 0x01], upc := 1 }) ∧
    (s.At .txsm 1 → exec .txsm s = .next { s with hist := s.hist ++ [.tx 0xFE], cmd := none, upc := 0 }) ∧
    (s.At .txem 0 → exec .txem s = .next { s with hist := s.hist ++ [.tx 0xFE], upc := 1 }) ∧
    (s.At .txem 1 → exec .txem s = .next { s with hist := s.hist ++ [.tx 0x01], cmd := none, upc := 0 })

/-- R140, R146: DRD rewinds, reads and forwards each of the N pixels, discards a pending edge, clears READY, counts the
frame and retires. -/
def Obligations.DrdSteps : Prop :=
  ∀ s : State,
    RewindSteps .drd s (goOn 6) ∧
    (∀ i, i < s.params.pixelCount →
      PixelReadSteps .drd (6 + 7 * i) s ∧
      (s.At .drd (6 + 7 * i + 6) → ForwardsPixel .drd s (goOn (6 + 7 * (i + 1))))) ∧
    (s.At .drd (7 * s.params.pixelCount + 6) →
      exec .drd s = .next { s with
        missedCount :=
          if s.params.missedFrameCounter = true ∧ s.fvPending = true then
            (s.missedCount + 1) % 2 ^ s.params.frameCountWidth
          else s.missedCount
        fvPending := false, hist := s.hist ++ [.ackFv s.fvPending], upc := 7 * s.params.pixelCount + 7 }) ∧
    (s.At .drd (7 * s.params.pixelCount + 7) →
      exec .drd s = .next { s with
        ready := false, frameCount := (s.frameCount + 1) % 2 ^ s.params.frameCountWidth
        hist := s.hist ++ [.frameDone ((s.frameCount + 1) % 2 ^ s.params.frameCountWidth)]
        cmd := none, upc := 0 })

/-- R145, R146: with TX_READY = 1 where a byte is transmitted, DRS rewinds, transmits the start marker, each of the N pixels
raw and the end marker, discards a pending edge, clears READY, counts the frame and retires. -/
def Obligations.DrsSteps : Prop :=
  ∀ s : State,
    RewindSteps .drs s (goOn 6) ∧
    (s.txReady = true →
      (s.At .drs 6 → exec .drs s = .next { s with hist := s.hist ++ [.tx 0x01], upc := 7 }) ∧
      (s.At .drs 7 → exec .drs s = .next { s with hist := s.hist ++ [.tx 0xFE], upc := 8 }) ∧
      (s.At .drs (8 * s.params.pixelCount + 8) →
        exec .drs s = .next { s with hist := s.hist ++ [.tx 0xFE], upc := 8 * s.params.pixelCount + 9 }) ∧
      (s.At .drs (8 * s.params.pixelCount + 9) →
        exec .drs s = .next { s with hist := s.hist ++ [.tx 0x01], upc := 8 * s.params.pixelCount + 10 })) ∧
    (∀ i, i < s.params.pixelCount →
      PixelReadSteps .drs (8 + 8 * i) s ∧
      (s.At .drs (8 + 8 * i + 6) → s.txReady = true → TransmitsByte .drs s.hi s (goOn (8 + 8 * i + 7))) ∧
      (s.At .drs (8 + 8 * i + 7) → s.txReady = true → TransmitsByte .drs s.lo s (goOn (8 + 8 * (i + 1))))) ∧
    (s.At .drs (8 * s.params.pixelCount + 10) →
      exec .drs s = .next { s with
        missedCount :=
          if s.params.missedFrameCounter = true ∧ s.fvPending = true then
            (s.missedCount + 1) % 2 ^ s.params.frameCountWidth
          else s.missedCount
        fvPending := false, hist := s.hist ++ [.ackFv s.fvPending], upc := 8 * s.params.pixelCount + 11 }) ∧
    (s.At .drs (8 * s.params.pixelCount + 11) →
      exec .drs s = .next { s with
        ready := false, frameCount := (s.frameCount + 1) % 2 ^ s.params.frameCountWidth
        hist := s.hist ++ [.frameDone ((s.frameCount + 1) % 2 ^ s.params.frameCountWidth)]
        cmd := none, upc := 0 })

/-! ### Whole commands, from the word on CMD to retirement -/

/-- R100, R105, R130, R170, R175, R176 and vectors RD1, RP1, PX5, TX3, SM1, EM1: the short commands, from acceptance to
retirement, with TX_READY = 1 where they transmit. -/
def Obligations.ShortCommandsRunToRetirement : Prop :=
  ∀ (s : State) (ms : List Config.Move), s.CanAccept →
    (∀ v rest, s.cmdPort = some 0x0100 → s.bus = v :: rest → s.agenda = List.replicate 4 .block ++ ms →
      run 4 s = .next { s with
        cmdPort := none, upc := 0, agenda := ms, bus := rest, rclk := true, latch := some v
        hist := s.hist ++ [.accept 0x0100, .rclk false, .sample v, .rclk true] }) ∧
    (s.cmdPort = some 0x0200 → s.agenda = List.replicate 7 .block ++ ms →
      run 7 s = .next { s with
        cmdPort := none, upc := 0, agenda := ms, rclk := true, rrst := false
        hist := s.hist ++ [.accept 0x0200] ++ rewindEvents }) ∧
    (∀ h l rest, s.cmdPort = some 0x0300 → s.bus = h :: l :: rest → s.agenda = List.replicate 8 .block ++ ms →
      run 8 s = .next { s with
        cmdPort := none, upc := 0, agenda := ms, bus := rest, rclk := true
        latch := some l, hi := some h, lo := some l, pix16 := some (h ++ l)
        hist := s.hist ++ [.accept 0x0300] ++ readEvents h l ++ [.pix (h ++ l)] }) ∧
    (∀ b : Byte, s.cmdPort = some ((0x10 : Byte) ++ b) → s.txReady = true →
      s.agenda = List.replicate 2 .block ++ ms →
      run 2 s = .next { s with
        cmdPort := none, upc := 0, agenda := ms
        hist := s.hist ++ [.accept ((0x10 : Byte) ++ b), .tx b] }) ∧
    (s.cmdPort = some 0x1100 → s.txReady = true → s.agenda = List.replicate 3 .block ++ ms →
      run 3 s = .next { s with
        cmdPort := none, upc := 0, agenda := ms
        hist := s.hist ++ [.accept 0x1100, .tx 0x01, .tx 0xFE] }) ∧
    (s.cmdPort = some 0x1200 → s.txReady = true → s.agenda = List.replicate 3 .block ++ ms →
      run 3 s = .next { s with
        cmdPort := none, upc := 0, agenda := ms
        hist := s.hist ++ [.accept 0x1200, .tx 0xFE, .tx 0x01] })

/-- R131 and vector PS1: PXS with TX_READY = 1, from acceptance to retirement; marker-valued bytes are sent raw. -/
def Obligations.PxsRunsToRetirement : Prop :=
  ∀ (s : State) (h l : Byte) (rest : List Byte) (ms : List Config.Move),
    s.CanAccept → s.cmdPort = some 0x0400 → s.bus = h :: l :: rest → s.txReady = true →
    s.agenda = List.replicate 9 .block ++ ms →
    run 9 s = .next { s with
      cmdPort := none, cmd := none, upc := 0, agenda := ms, bus := rest
      rclk := true, latch := some l, hi := some h, lo := some l
      hist := s.hist ++ [.accept 0x0400] ++ readEvents h l ++ [.tx h, .tx l] }

/-- R140, R147 and vector V1: a DRD whose block steps follow one another, for every N and every frame. -/
def Obligations.DrdRunsToRetirement : Prop :=
  ∀ (s : State) (pre : List Byte) (h l : Byte) (rest : List Byte) (ms : List Config.Move),
    s.CanAccept → s.cmdPort = some 0x2000 → s.ready = true →
    pre.length + 2 = 2 * s.params.pixelCount → s.bus = pre ++ [h, l] ++ rest →
    s.agenda = List.replicate (7 * s.params.pixelCount + 9) .block ++ ms →
    run (7 * s.params.pixelCount + 9) s = .next { s with
      cmdPort := none, cmd := none, upc := 0, agenda := ms, bus := rest
      rclk := true, rrst := false
      latch := some l, hi := some h, lo := some l, pix16 := some (h ++ l)
      ready := false, fvPending := false
      frameCount := (s.frameCount + 1) % 2 ^ s.params.frameCountWidth
      missedCount :=
        if s.params.missedFrameCounter = true ∧ s.fvPending = true then
          (s.missedCount + 1) % 2 ^ s.params.frameCountWidth
        else s.missedCount
      hist := s.hist ++ [.accept 0x2000] ++ rewindEvents ++ displayEvents (pre ++ [h, l]) ++
        [.ackFv s.fvPending, .frameDone ((s.frameCount + 1) % 2 ^ s.params.frameCountWidth)] }

/-- R145, R147, R177 and vector V2: a DRS with TX_READY = 1 whose block steps follow one another, for every N and every
frame. -/
def Obligations.DrsRunsToRetirement : Prop :=
  ∀ (s : State) (pre : List Byte) (h l : Byte) (rest : List Byte) (ms : List Config.Move),
    s.CanAccept → s.cmdPort = some 0x2100 → s.ready = true → s.txReady = true →
    pre.length + 2 = 2 * s.params.pixelCount → s.bus = pre ++ [h, l] ++ rest →
    s.agenda = List.replicate (8 * s.params.pixelCount + 13) .block ++ ms →
    run (8 * s.params.pixelCount + 13) s = .next { s with
      cmdPort := none, cmd := none, upc := 0, agenda := ms, bus := rest
      rclk := true, rrst := false
      latch := some l, hi := some h, lo := some l
      ready := false, fvPending := false
      frameCount := (s.frameCount + 1) % 2 ^ s.params.frameCountWidth
      missedCount :=
        if s.params.missedFrameCounter = true ∧ s.fvPending = true then
          (s.missedCount + 1) % 2 ^ s.params.frameCountWidth
        else s.missedCount
      hist := s.hist ++ [.accept 0x2100] ++ rewindEvents ++ [.tx 0x01, .tx 0xFE] ++
        serialEvents (pre ++ [h, l]) ++ [.tx 0xFE, .tx 0x01] ++
        [.ackFv s.fvPending, .frameDone ((s.frameCount + 1) % 2 ^ s.params.frameCountWidth)] }

/-- R61, R62, R260, R262: under SensorInOrder, bus stability and NoOverwriteDuringDrain, a drain delivers the frame the
sensor held when the drain's rewind began (after step `m`), whatever the other agents do short of a reset: a DRD its N
pixels, pixel i being bytes 2i and 2i+1, high byte first, a DRS its 2N bytes in the envelope. The L(c) block turns after
the one that accepts it, none of them a hold, retire it. That NoOverwriteDuringDrain begins with the first drive of the
drain's RPR, and so which frame is named, is the model's choice (DESIGN CHOICE, notes/assumptions/22.md). -/
def Obligations.DrainsDeliverTheSensorsFrame : Prop :=
  ∀ (z : Sensor) (sched : Nat → Config.Move) (r : Nat → State) (c : Instr) (a b : Nat),
    IsRun sched r → NoReset sched → isDrain c = true → AcceptedAt c sched r a → a < b →
    (RetiredBy c r a b → SensorInOrder z r → BusStability z → NoOverwriteDuringDrain z r →
      ∀ m, a < m → m ≤ b → (r m).upc = 1 →
        (c = .drd → pixStream (sinceAccept (r (b + 1)).hist) =
          (List.range (r a).params.pixelCount).map fun i => z.frame m (2 * i) ++ z.frame m (2 * i + 1)) ∧
        (c = .drs → txStream (sinceAccept (r (b + 1)).hist) =
          envelope ((List.range (2 * (r a).params.pixelCount)).map (z.frame m)))) ∧
    ((c = .drd ∨ ∀ k, a ≤ k → k < b → (r k).txReady = true) →
      blockTurns sched a (b - a) = muLength (r a).params.pixelCount c + 1 → (r b).cmd = none)

/-! ### Frames -/

/-- R100, R105: what RDB and RPR leave unchanged. -/
def Obligations.ReaderCommandsFrame : Prop :=
  (∀ s t : State, exec .rdb s = .next t →
    t.rrst = s.rrst ∧ t.hi = s.hi ∧ t.lo = s.lo ∧ t.pix16 = s.pix16 ∧ t.ready = s.ready ∧
    t.fvPending = s.fvPending ∧ t.frameCount = s.frameCount ∧ t.missedCount = s.missedCount ∧ t.err = s.err ∧
    t.txReady = s.txReady ∧ t.cmdPort = s.cmdPort ∧ t.params = s.params ∧ t.agenda = s.agenda) ∧
  (∀ s t : State, exec .rpr s = .next t →
    t = { s with rclk := t.rclk, rrst := t.rrst, cmd := t.cmd, upc := t.upc, hist := t.hist })

/-- R130, R131: what PXD and PXS leave unchanged. -/
def Obligations.PixelCommandsFrame : Prop :=
  (∀ (i : Instr) (s t : State), (i = .pxd ∨ i = .pxs) → exec i s = .next t →
    t.rrst = s.rrst ∧ t.ready = s.ready ∧ t.fvPending = s.fvPending ∧ t.frameCount = s.frameCount ∧
    t.missedCount = s.missedCount ∧ t.err = s.err ∧ t.txReady = s.txReady ∧ t.cmdPort = s.cmdPort ∧
    t.params = s.params ∧ t.agenda = s.agenda) ∧
  (∀ s t : State, exec .pxs s = .next t → t.pix16 = s.pix16)

/-- R170, R175, R176: the framer's commands change the sequencer position and the history, and nothing else. -/
def Obligations.FramerCommandsFrame : Prop :=
  ∀ (i : Instr) (s t : State), (i = .txsm ∨ i = .txem ∨ ∃ b, i = .txb b) → exec i s = .next t →
    t = { s with cmd := t.cmd, upc := t.upc, hist := t.hist }

/-- R140, R145: what a drain leaves unchanged; the flags and counters change at ACKFV and CLRRDY only, `err` only where
acceptance raises DRAIN_NOT_READY. -/
def Obligations.DrainsFrame : Prop :=
  ∀ (i : Instr) (s t : State), (i = .drd ∨ i = .drs) → exec i s = .next t →
    t.txReady = s.txReady ∧ t.cmdPort = s.cmdPort ∧ t.params = s.params ∧ t.agenda = s.agenda ∧
    (i = .drs → t.pix16 = s.pix16) ∧
    (¬(s.CanAccept ∧ s.ready = false) → t.err = s.err) ∧
    (¬(s.At i (muLength s.params.pixelCount i - 2)) →
      t.fvPending = s.fvPending ∧ t.missedCount = s.missedCount) ∧
    (¬(s.At i (muLength s.params.pixelCount i - 1)) → t.ready = s.ready ∧ t.frameCount = s.frameCount)

/-! ### Interrupt, environment, host, reset -/

/-- R210, R211: the interrupt step, exactly; while no edge is pending it does not run. -/
def Obligations.InterruptStepIsTheRules : Prop :=
  ∀ s : State,
    (s.fvPending = true → take .interrupt s = .next { s with
      ready := true, fvPending := false
      missedCount :=
        if s.params.missedFrameCounter = true ∧ s.ready = true then
          (s.missedCount + 1) % 2 ^ s.params.frameCountWidth
        else s.missedCount
      hist := s.hist ++ [.isr s.ready] }) ∧
    (s.fvPending = false → take .interrupt s = .next s)

/-- R34: the environment's two steps, exactly, in every state. -/
def Obligations.EnvironmentStepsAreTheRules : Prop :=
  ∀ s : State,
    (∀ b, take (.setTxReady b) s = .next { s with txReady := b }) ∧
    (take .fvEdge s = .next { s with
      fvPending := true
      missedCount :=
        if s.params.missedFrameCounter = true ∧ s.fvPending = true then
          (s.missedCount + 1) % 2 ^ s.params.frameCountWidth
        else s.missedCount
      hist := s.hist ++ [.fvEdge] })

/-- R35, R236: the host presents a word only where none waits (notes/assumptions/7.md), and reading a port changes nothing of
the block. -/
def Obligations.HostStepsAreTheRules : Prop :=
  ∀ s : State,
    (∀ w, s.cmdPort = none → take (.issue w) s = .next { s with cmdPort := some w }) ∧
    (∀ w v, s.cmdPort = some v → take (.issue w) s = .next s) ∧
    (∀ p, ∃ d, take (.read p) s = .next { s with draws := d })

/-- R250, R251, R254: the reset step sets every block element, keeps TX_READY and the word on CMD, and STATUS then reads
0x0040 | (TX_READY << 3); a run starts from what it produces where the history was empty. -/
def Obligations.ResetStepIsTheRules : Prop :=
  ∀ s : State, ∃ t, take .reset s = .next t ∧
    t = { s with
      rclk := true, rrst := false
      latch := none, hi := none, lo := none, pix16 := none
      ready := false, fvPending := false, frameCount := 0, missedCount := 0
      cmd := none, upc := 0, err := .none, hist := s.hist ++ [.reset] } ∧
    t.status = 0x0040 ||| (BitVec.ofNat 16 s.txReady.toNat <<< 3) ∧
    (s.hist = [] → State.reset = { t with
      txReady := State.reset.txReady, cmdPort := State.reset.cmdPort, params := State.reset.params
      bus := State.reset.bus, agenda := State.reset.agenda, draws := State.reset.draws })

/-- R29: the fields of STATUS, and CMD_READY. -/
def Obligations.StatusHasItsFields : Prop :=
  ∀ s : State,
    s.status.getLsbD 0 = s.ready ∧ s.status.getLsbD 1 = s.fvPending ∧
    s.status.getLsbD 2 = decide (s.cmd ≠ none) ∧ s.status.getLsbD 3 = s.txReady ∧
    (s.err = .none → s.status.extractLsb' 4 2 = (0 : BitVec 2)) ∧
    (s.err = .illegalCmd → s.status.extractLsb' 4 2 = (1 : BitVec 2)) ∧
    (s.err = .drainNotReady → s.status.extractLsb' 4 2 = (2 : BitVec 2)) ∧
    s.status.getLsbD 6 = s.rclk ∧ s.status.getLsbD 7 = s.rrst ∧ s.status.extractLsb' 8 8 = (0 : Byte) ∧
    (s.cmdReady = true ↔ s.cmd = none ∧ s.err = .none)

/-- R7, R20, R105 (b): the electrical level of RRST, and which change of FV is a frame-valid edge.
R20, R23, R35 (b): the host can read every output port, MISSED_COUNT only with the option; the lines, the flags, a
data register that holds a value and the counters show; the level of TX_DATA, TX_WR and PIX_WR between two writes is left
open (notes/assumptions/21.md). -/
def Obligations.PortsShowTheRegisters : Prop :=
  ∀ s : State,
    (s.rrst = true → s.rrstPin = s.params.rrstActiveLevel) ∧
    (s.rrst = false → s.rrstPin ≠ s.params.rrstActiveLevel) ∧
    (∀ before after, isFrameValidEdge s.params before after = true ↔
      (s.params.fvActiveEdge = .rising ∧ before = false ∧ after = true) ∨
        (s.params.fvActiveEdge = .falling ∧ before = true ∧ after = false)) ∧
    s.readPort .rclk = some s.rclk.toNat ∧ s.readPort .rrst = some s.rrst.toNat ∧
    s.readPort .cmdReady = some s.cmdReady.toNat ∧ s.readPort .status = some s.status.toNat ∧
    (∃ b : Byte, s.readPort .rdData = some b.toNat) ∧ (∃ v : Pixel, s.readPort .pix16 = some v.toNat) ∧
    (∃ b : Byte, s.readPort .txData = some b.toNat) ∧ (∃ l : Bool, s.readPort .txWr = some l.toNat) ∧
    (∃ l : Bool, s.readPort .pixWr = some l.toNat) ∧
    (∀ v, s.latch = some v → s.readPort .rdData = some v.toNat) ∧
    (∀ v, s.pix16 = some v → s.readPort .pix16 = some v.toNat) ∧
    (s.CountersFit → s.readPort .frameCount = some s.frameCount) ∧
    (s.CountersFit → s.params.missedFrameCounter = true → s.readPort .missedCount = some s.missedCount) ∧
    (s.params.missedFrameCounter = false → s.readPort .missedCount = none)

/-! ### Rules of the whole machine -/

/-- R25: only the interrupt step, on a pending edge, sets READY; only CLRRDY and reset clear it. -/
def Obligations.OnlyInterruptSetsReady : Prop :=
  ∀ s t : State, step s = .next t →
    (s.ready = false → t.ready = true → s.nextMove = .interrupt ∧ s.fvPending = true) ∧
    (s.ready = true → t.ready = false →
      s.nextMove = .reset ∨
        (s.nextMove = .block ∧ ∃ c, s.cmd = some c ∧ isDrain c = true ∧
          s.upc + 1 = muLength s.params.pixelCount c))

/-- R27: the frame counter changes by CLRRDY, which adds one modulo 2^W, and by reset; never by the interrupt step. -/
def Obligations.OnlyDrainEndCountsFrames : Prop :=
  ∀ s t : State, step s = .next t → t.frameCount ≠ s.frameCount →
    (s.nextMove = .reset ∧ t.frameCount = 0) ∨
      (s.nextMove = .block ∧ (∃ c, s.cmd = some c ∧ isDrain c = true ∧
        s.upc + 1 = muLength s.params.pixelCount c) ∧
        t.frameCount = (s.frameCount + 1) % 2 ^ s.params.frameCountWidth)

/-- R28: the missed-frame counter exists only with the option; in the three cases of the rule it counts one more, modulo
2^W, and but for reset nothing else changes it. -/
def Obligations.MissedFramesAreCountedInThreeCases : Prop :=
  (∀ s : State, s.params.missedFrameCounter = false → s.readPort .missedCount = none) ∧
  ∀ s t : State, step s = .next t →
    (s.params.missedFrameCounter = true → s.MissesFrame →
      t.missedCount = (s.missedCount + 1) % 2 ^ s.params.frameCountWidth) ∧
    (t.missedCount ≠ s.missedCount →
      (s.nextMove = .reset ∧ t.missedCount = 0) ∨ (s.params.missedFrameCounter = true ∧ s.MissesFrame))

/-- R107, R211: no move but the block's and reset drives a line, samples the bus, or writes a data register, the serial port
or the display port. -/
def Obligations.OnlyTheBlockTouchesTheBus : Prop :=
  ∀ s t : State, step s = .next t → s.nextMove ≠ .block → s.nextMove ≠ .reset →
    t.rclk = s.rclk ∧ t.rrst = s.rrst ∧ t.latch = s.latch ∧ t.hi = s.hi ∧ t.lo = s.lo ∧ t.pix16 = s.pix16 ∧
    t.bus = s.bus ∧ t.cmd = s.cmd ∧ t.upc = s.upc ∧ t.err = s.err ∧ t.frameCount = s.frameCount ∧
    traceEvents t.hist = traceEvents s.hist

/-- R149, R252: but for reset, a command in progress goes on or retires with its last micro-operation. -/
def Obligations.OnlyResetCutsACommandShort : Prop :=
  ∀ (s t : State) (c : Instr), s.cmd = some c → step s = .next t → s.nextMove ≠ .reset →
    (t.cmd = some c ∧ (t.upc = s.upc ∨ (s.nextMove = .block ∧ t.upc = s.upc + 1))) ∨
      (t.cmd = none ∧ s.nextMove = .block ∧ s.upc + 1 = muLength s.params.pixelCount c)

/-- R203: while faulted the block takes no step and no command, CMD_READY is 0, and only reset clears the fault. -/
def Obligations.FaultsAreSticky : Prop :=
  ∀ s : State, s.err ≠ .none →
    (∀ i, exec i s = .next s) ∧ blockMove s = .next s ∧ s.cmdReady = false ∧
    (∀ t, step s = .next t → s.nextMove ≠ .reset → t.err = s.err)

/-- R202: a fault is raised only by the acceptance step, and changes `err` and the history only. -/
def Obligations.FaultsAreRaisedByAcceptanceOnly : Prop :=
  ∀ s t : State, step s = .next t → t.err ≠ s.err → s.nextMove ≠ .reset →
    ∃ w, s.nextMove = .block ∧ s.CanAccept ∧ s.cmdPort = some w ∧
      t = { s.afterChoice with
        cmdPort := none, err := t.err, hist := s.hist ++ [.accept w, .fault t.err] } ∧
      ((t.err = .illegalCmd ∧ decode w = none) ∨
        (t.err = .drainNotReady ∧ s.ready = false ∧ (decode w = some .drd ∨ decode w = some .drs)))

/-- R204: while TX_READY stays 0 a stalled block stays where it is, whatever the other agents do short of a reset: the
command does not advance, no frame is counted, and a drain's READY stays 1. -/
def Obligations.StalledBlockHangs : Prop :=
  ∀ (ms rest : List Config.Move) (s : State),
    s.Stalled → s.agenda = ms ++ rest → .reset ∉ ms → .setTxReady true ∉ ms →
    ∃ t, run ms.length s = .next t ∧ t.Stalled ∧ t.cmd = s.cmd ∧ t.upc = s.upc ∧
      t.frameCount = s.frameCount ∧ txStream t.hist = txStream s.hist ∧ (s.ready = true → t.ready = true)

/-- R74, R106: the history is only ever added to, so no event is reordered, dropped or changed. -/
def Obligations.HistoryOnlyGrows : Prop := ∀ s t : State, step s = .next t → ∃ e, t.hist = s.hist ++ e

/-- R7, R24: the parameters never change, no step is refused, and a step whose sequencer position is legal answers. -/
def Obligations.LegalPositionNeverStops : Prop :=
  (∀ (s : State) (r : Refusal), step s ≠ .refused r) ∧
  (∀ s : State, s.Positioned → ∃ t, step s = .next t ∧ t.params = s.params)

/-- R152: the four fates of a frame-valid edge around the end of a drain. -/
def Obligations.EdgeFatesAtTheEndOfADrain : Prop :=
  ∀ (s : State) (c : Instr) (ms : List Config.Move), isDrain c = true →
    s.At c (muLength s.params.pixelCount c - 2) → s.ready = true → s.fvPending = false →
    (s.agenda = [.fvEdge, .interrupt, .block, .block] ++ ms →
      ∃ t, run 4 s = .next t ∧ t.ready = false ∧ t.fvPending = false) ∧
    (s.agenda = [.fvEdge, .block, .block, .interrupt] ++ ms →
      ∃ t, run 4 s = .next t ∧ t.ready = false ∧ t.fvPending = false) ∧
    (s.agenda = [.block, .fvEdge, .interrupt, .block] ++ ms →
      ∃ t, run 4 s = .next t ∧ t.ready = false ∧ t.fvPending = false) ∧
    (s.agenda = [.block, .fvEdge, .block, .interrupt] ++ ms →
      ∃ t, run 4 s = .next t ∧ t.ready = true ∧ t.fvPending = false)

/-! ### Invariants every step keeps -/

/-- R7, R23, R24, R25, R27, R28, R102, R202 at reset. -/
def Obligations.ResetMeetsTheInvariant : Prop := State.reset.Inv

/-- R7, R23, R24, R25, R27, R28, R102, R202: every step keeps the invariant. -/
def Obligations.StepKeepsTheInvariant : Prop :=
  ∀ s t : State, s.Inv → step s = .next t → t.Inv

/-- R102: whenever no command is in progress RCLK is 1 and RRST is 0; every micro-program ends at these levels, and the
framer's drive neither line. -/
def Obligations.IdleLevelsHold : Prop :=
  State.reset.LinesDriven ∧
  (∀ s t : State, s.LinesDriven → step s = .next t → t.LinesDriven) ∧
  (∀ s : State, s.LinesDriven → s.cmd = none → s.rclk = true ∧ s.rrst = false) ∧
  (∀ (n : Nat) (c : Instr), linesAfter (mu n c) = (true, false)) ∧
  (∀ (n : Nat) (c : Instr) (l : Bool), (c = .txsm ∨ c = .txem ∨ ∃ b, c = .txb b) →
    .rclk l ∉ mu n c ∧ .rrst l ∉ mu n c)

/-- R33 with R30, R34, R202, R210, R250: the history records every change of the lines, the latch, PIX16, the flags, the
counters and the fault (not of hi and lo, of which CommandsLeaveTheirTrace speaks), from reset on and at every step. -/
def Obligations.HistoryRecordsTheState : Prop :=
  State.reset.Recorded ∧ ∀ s t : State, s.Recorded → step s = .next t → t.Recorded

/-- R27: the frame counter is the number of drains completed since the last reset, modulo 2^W. -/
def Obligations.FrameCounterCountsDrains : Prop :=
  State.reset.CountsDrains ∧ ∀ s t : State, s.CountsDrains → step s = .next t → t.CountsDrains

/-- R30, R31, R147: at every step of every run, what a command in progress has done since its `Accept` is the trace of its
performed micro-operations. -/
def Obligations.CommandsLeaveTheirTrace : Prop :=
  State.reset.Traced ∧ ∀ s t : State, s.Traced → step s = .next t → t.Traced

/-- R147, R177: whatever the other agents did meanwhile, a drain that retires has taken exactly 2N samples; a DRS has
transmitted exactly its envelope and forwarded no pixel, a DRD has forwarded exactly the N pixels and transmitted nothing. -/
def Obligations.RetiredDrainsAreWholeFrames : Prop :=
  ∀ (s t : State) (c : Instr), s.Traced → s.cmd = some c → step s = .next t → s.nextMove ≠ .reset →
    t.cmd = none →
    (c = .drs → t.sampled.length = 2 * s.params.pixelCount ∧
      txStream (sinceAccept t.hist) = envelope t.sampled ∧ pixStream (sinceAccept t.hist) = []) ∧
    (c = .drd → t.sampled.length = 2 * s.params.pixelCount ∧
      pixStream (sinceAccept t.hist) = pixelsOf t.sampled ∧ txStream (sinceAccept t.hist) = [])

/-- R89: the traces of the composed commands are those of their parts. -/
def Obligations.CompositeCommandsTraceTheirParts : Prop :=
  (∀ bytes, traceOf muTxsm bytes = traceOf (muTxb 0x01) bytes ++ traceOf (muTxb 0xFE) bytes) ∧
  (∀ bytes, traceOf muTxem bytes = traceOf (muTxb 0xFE) bytes ++ traceOf (muTxb 0x01) bytes) ∧
  (∀ h l : Byte, traceOf muPxs [h, l] =
    traceOf muRdb [h] ++ traceOf muRdb [l] ++ traceOf (muTxb h) [] ++ traceOf (muTxb l) []) ∧
  (∀ pixels : List (Byte × Byte),
    traceOf (muDrs pixels.length) (pixels.flatMap fun p => [p.1, p.2]) =
      traceOf muRpr [] ++ traceOf muTxsm [] ++ pixels.flatMap (fun p => traceOf muPxs [p.1, p.2]) ++
        traceOf muTxem []) ∧
  (∀ pixels : List (Byte × Byte),
    traceOf (muDrd pixels.length) (pixels.flatMap fun p => [p.1, p.2]) =
      traceOf muRpr [] ++ pixels.flatMap (fun p => traceOf muPxd [p.1, p.2]))

/-! ### Completion under every interleaving -/

/-- R140, R266: RDB, RPR, PXD and DRD retire after exactly their remaining block steps, whatever the other agents do
meanwhile short of a reset. -/
def Obligations.CommandsWithoutTransmitComplete : Prop :=
  ∀ (ms rest : List Config.Move) (s : State) (c : Instr),
    (c = .rdb ∨ c = .rpr ∨ c = .pxd ∨ c = .drd) → s.err = .none → s.cmd = some c → s.Positioned →
    s.agenda = ms ++ .block :: rest → .reset ∉ ms →
    ms.count .block + 1 = muLength s.params.pixelCount c - s.upc →
    ∃ t, run (ms.length + 1) s = .next t ∧ t.cmd = none ∧ t.err = .none ∧
      (c = .drd → t.ready = false ∧ t.frameCount = (s.frameCount + 1) % 2 ^ s.params.frameCountWidth)

/-- R266: under weak fairness toward the block and TxEventuallyReady, every command in progress retires in every run
without a reset. -/
def Obligations.FairRunsRetireCommands : Prop :=
  ∀ (sched : Nat → Config.Move) (r : Nat → State) (c : Instr),
    IsRun sched r → NoReset sched → FairToBlock sched r → TxEventuallyReady sched r →
    (r 0).err = .none → (r 0).cmd = some c → (r 0).Positioned → ∃ k, (r k).cmd = none

/-- R212, R266: under weak fairness toward the interrupt context and FiniteEdges, the pending bit is 0 from some point on. -/
def Obligations.FiniteEdgesAreHandled : Prop :=
  ∀ (sched : Nat → Config.Move) (r : Nat → State),
    IsRun sched r → FiniteEdges sched → FairToInterrupt sched r →
    ∃ k, ∀ j, k ≤ j → (r j).fvPending = false

/-! ### The assembler -/

/-- R88: the source line of every command assembles to its word; the case of a mnemonic's letters and a comment after the
line make no difference. -/
def Obligations.AssemblerWritesEveryCommand : Prop :=
  (∀ i : Instr, Asm.assembleLine (Asm.sourceOf i) = .ok (some (encode i))) ∧
  (∀ (mnemonic : List Char) (operands : List (List Char)),
    Asm.parseTokens (mnemonic.map Asm.upper :: operands) = Asm.parseTokens (mnemonic :: operands)) ∧
  (∀ line comment : List Char, ';' ∉ line → Asm.parseLine (line ++ ';' :: comment) = Asm.parseLine line)

/-- R88: TXB takes exactly one operand, a decimal number whose value is the byte, or `0x` with one or two hexadecimal digits;
a value outside 0 to 255 is an error, and so is an operand after another mnemonic. That a decimal operand may have leading
zeros (`zeros` of them) and counts by its value is the model's choice, which R88 leaves open (DESIGN CHOICE,
notes/assumptions/18.md). The values are those of the library's `Nat.toDigits` and `Nat.digitChar`. -/
def Obligations.AssemblerChecksOperands : Prop :=
  (∀ zeros n : Nat, Asm.parseOperand (List.replicate zeros '0' ++ Nat.toDigits 10 n) =
    if n < 256 then .ok (BitVec.ofNat 8 n) else .error .operandOutOfRange) ∧
  (∀ n : Nat, n < 16 → Asm.parseOperand ['0', 'x', Nat.digitChar n] = .ok (BitVec.ofNat 8 n)) ∧
  (∀ m n : Nat, m < 16 → n < 16 →
    Asm.parseOperand ['0', 'x', Nat.digitChar m, Nat.digitChar n] = .ok (BitVec.ofNat 8 (16 * m + n))) ∧
  (∀ (t : List Char) (b : Byte), Asm.parseOperand t = .ok b →
    Asm.parseTokens [['T', 'X', 'B'], t] = .ok (some (.txb b))) ∧
  (∀ (t : List Char) (e : Asm.AsmError), Asm.parseOperand t = .error e →
    Asm.parseTokens [['T', 'X', 'B'], t] = .error e) ∧
  Asm.parseTokens [['T', 'X', 'B']] = .error .missingOperand ∧
  (∀ (t u : List Char) (more : List (List Char)),
    Asm.parseTokens (['T', 'X', 'B'] :: t :: u :: more) = .error .unexpectedOperand) ∧
  (∀ (i : Instr) (operand : List Char) (more : List (List Char)), (∀ b, i ≠ .txb b) →
    Asm.parseTokens (Asm.sourceOf i :: operand :: more) = .error .unexpectedOperand)
end

