-- ==== Sys2Proof/Laws/History.lean ====
section
/-! SUPPORT. The small lemmas of the terms claims use: the streams of a history, the events since the last Accept, the trace
of a micro-program. -/
namespace Sys2Proof.Machine

@[simp] theorem txStream_append (h e : List Event) : txStream (h ++ e) = txStream h ++ txStream e :=
  List.filterMap_append

@[simp] theorem pixStream_append (h e : List Event) : pixStream (h ++ e) = pixStream h ++ pixStream e :=
  List.filterMap_append

@[simp] theorem sampleStream_append (h e : List Event) :
    sampleStream (h ++ e) = sampleStream h ++ sampleStream e :=
  List.filterMap_append

@[simp] theorem traceEvents_append (h e : List Event) : traceEvents (h ++ e) = traceEvents h ++ traceEvents e :=
  List.filter_append ..

@[simp] theorem observable_append (h e : List Event) : observable (h ++ e) = observable h ++ observable e :=
  List.filter_append ..

/-- One event more: an `Accept` begins afresh, any other event is added. -/
theorem sinceAccept_snoc (h : List Event) (e : Event) :
    sinceAccept (h ++ [e]) =
      match e with
      | .accept _ => []
      | e => sinceAccept h ++ [e] := by
  have general : ∀ (h acc : List Event), sinceAcceptFrom acc (h ++ [e]) =
      match e with
      | .accept _ => []
      | e => sinceAcceptFrom acc h ++ [e] := by
    intro h
    induction h with
    | nil => intro acc; cases e <;> rfl
    | cons x h ih => intro acc; cases x <;> simp only [List.cons_append, sinceAcceptFrom, ih]
  exact general h []

/-- One event more in the count of completed drains (R27). -/
theorem completedDrains_snoc (h : List Event) (e : Event) :
    completedDrains (h ++ [e]) =
      match e with
      | .frameDone _ => completedDrains h + 1
      | .reset => 0
      | _ => completedDrains h := by
  unfold completedDrains
  rw [List.foldl_append]
  cases e <;> rfl

/-- One event more in what a history says of the sensor's read pointer (R61). -/
theorem rewindOf_snoc (h : List Event) (e : Event) : rewindOf (h ++ [e]) = (rewindOf h).after e := by
  simp [rewindOf]

/-- A rewind begins at `RRST(1)`, whatever came before. -/
@[simp] theorem Rewind.after_rrst_true (p : Rewind) : p.after (.rrst true) = .rewinding 1 := by
  simp [Rewind.after, Rewind.drive]

/-- A completed rewind, whatever came before it (R105). -/
theorem rewindOf_rewind (h : List Event) : rewindOf (h ++ rewindEvents) = .inOrder true 0 := by
  have first : (h.foldl Rewind.after .unknown).after (.rrst true) = .rewinding 1 := by simp
  simp only [rewindOf, rewindEvents, List.foldl_append, List.foldl_cons, List.foldl_nil, first]
  decide

/-- RCLK drives move the position of a rewound sensor no further; samples do (R61). -/
@[simp] theorem Rewind.after_rclk_inOrder (l clock : Bool) (j : Nat) :
    (Rewind.inOrder clock j).after (.rclk l) = .inOrder l j := by
  simp [Rewind.after, Rewind.drive, clockAfter]

@[simp] theorem Rewind.after_sample_inOrder (v : Byte) (clock : Bool) (j : Nat) :
    (Rewind.inOrder clock j).after (.sample v) = .inOrder clock (j + 1) := rfl

/-- A reset of a reader whose clock is parked high leaves the pointer where it is (R250). -/
@[simp] theorem Rewind.after_reset_parked (j : Nat) : (Rewind.inOrder true j).after .reset = .inOrder true j := rfl

/-- After a reset in a read's low phase the pointer is unknown (R252 (b), U22). -/
@[simp] theorem Rewind.after_reset_reading (j : Nat) : (Rewind.inOrder false j).after .reset = .unknown := rfl

/-- The transmitted bytes are among the trace events. -/
theorem txStream_traceEvents (h : List Event) : txStream (traceEvents h) = txStream h := by
  induction h with
  | nil => rfl
  | cons e h ih => cases e <;> first | exact ih | exact congrArg (List.cons _) ih

/-- The forwarded pixels are among the trace events. -/
theorem pixStream_traceEvents (h : List Event) : pixStream (traceEvents h) = pixStream h := by
  induction h with
  | nil => rfl
  | cons e h ih => cases e <;> first | exact ih | exact congrArg (List.cons _) ih

/-- One micro-operation more in a trace (R12). -/
theorem traceEnd_snoc (p : List MicroOp) (m : MicroOp) (bytes : List Byte) :
    traceEnd (p ++ [m]) bytes = (traceEnd p bytes).next m := by
  simp [traceEnd]

end Sys2Proof.Machine
end

