-- ==== Sys2Proof/Laws/PerInstr.lean ====
section
/-! SUPPORT. A family of statements about every command as syntax, one lemma per constructor. -/

/-- The word of a command is a legal word (spec/30_encoding.md R83, R84). -/
def Sys2Proof.Laws.LegalWord.Statement (i : Sys2Proof.Instr) : Prop :=
  Sys2Proof.legalWord (Sys2Proof.encode i) = true

theorem Sys2Proof.Laws.LegalWord.rdb : Sys2Proof.Laws.LegalWord.Statement .rdb := by
  unfold Sys2Proof.Laws.LegalWord.Statement; decide

theorem Sys2Proof.Laws.LegalWord.rpr : Sys2Proof.Laws.LegalWord.Statement .rpr := by
  unfold Sys2Proof.Laws.LegalWord.Statement; decide

theorem Sys2Proof.Laws.LegalWord.pxd : Sys2Proof.Laws.LegalWord.Statement .pxd := by
  unfold Sys2Proof.Laws.LegalWord.Statement; decide

theorem Sys2Proof.Laws.LegalWord.pxs : Sys2Proof.Laws.LegalWord.Statement .pxs := by
  unfold Sys2Proof.Laws.LegalWord.Statement; decide

theorem Sys2Proof.Laws.LegalWord.txb (b : Sys2Proof.Byte) : Sys2Proof.Laws.LegalWord.Statement (.txb b) := by
  have h : (Sys2Proof.encode (.txb b)).extractLsb' 8 8 = (0x10 : Sys2Proof.Byte) := by
    revert b; decide
  unfold Sys2Proof.Laws.LegalWord.Statement Sys2Proof.legalWord
  rw [h]
  simp [Sys2Proof.assignedOps]

theorem Sys2Proof.Laws.LegalWord.txsm : Sys2Proof.Laws.LegalWord.Statement .txsm := by
  unfold Sys2Proof.Laws.LegalWord.Statement; decide

theorem Sys2Proof.Laws.LegalWord.txem : Sys2Proof.Laws.LegalWord.Statement .txem := by
  unfold Sys2Proof.Laws.LegalWord.Statement; decide

theorem Sys2Proof.Laws.LegalWord.drd : Sys2Proof.Laws.LegalWord.Statement .drd := by
  unfold Sys2Proof.Laws.LegalWord.Statement; decide

theorem Sys2Proof.Laws.LegalWord.drs : Sys2Proof.Laws.LegalWord.Statement .drs := by
  unfold Sys2Proof.Laws.LegalWord.Statement; decide
end

