-- ==== Sys2Proof/Laws/State.lean ====
section
/-! SUPPORT. What each shared operation does to each field of the state: one lemma per field, so that no later proof unfolds a
record update. -/
namespace Sys2Proof.Machine

/-! ### Events, counters and flags -/

@[simp] theorem State.emit_rclk (e : Event) (s : State) : (s.emit e).rclk = s.rclk := rfl
@[simp] theorem State.emit_rrst (e : Event) (s : State) : (s.emit e).rrst = s.rrst := rfl
@[simp] theorem State.emit_latch (e : Event) (s : State) : (s.emit e).latch = s.latch := rfl
@[simp] theorem State.emit_hi (e : Event) (s : State) : (s.emit e).hi = s.hi := rfl
@[simp] theorem State.emit_lo (e : Event) (s : State) : (s.emit e).lo = s.lo := rfl
@[simp] theorem State.emit_pix16 (e : Event) (s : State) : (s.emit e).pix16 = s.pix16 := rfl
@[simp] theorem State.emit_ready (e : Event) (s : State) : (s.emit e).ready = s.ready := rfl
@[simp] theorem State.emit_fvPending (e : Event) (s : State) : (s.emit e).fvPending = s.fvPending := rfl
@[simp] theorem State.emit_frameCount (e : Event) (s : State) : (s.emit e).frameCount = s.frameCount := rfl
@[simp] theorem State.emit_missedCount (e : Event) (s : State) : (s.emit e).missedCount = s.missedCount := rfl
@[simp] theorem State.emit_cmd (e : Event) (s : State) : (s.emit e).cmd = s.cmd := rfl
@[simp] theorem State.emit_upc (e : Event) (s : State) : (s.emit e).upc = s.upc := rfl
@[simp] theorem State.emit_err (e : Event) (s : State) : (s.emit e).err = s.err := rfl
@[simp] theorem State.emit_hist (e : Event) (s : State) : (s.emit e).hist = s.hist ++ [e] := rfl
@[simp] theorem State.emit_txReady (e : Event) (s : State) : (s.emit e).txReady = s.txReady := rfl
@[simp] theorem State.emit_cmdPort (e : Event) (s : State) : (s.emit e).cmdPort = s.cmdPort := rfl
@[simp] theorem State.emit_params (e : Event) (s : State) : (s.emit e).params = s.params := rfl
@[simp] theorem State.emit_bus (e : Event) (s : State) : (s.emit e).bus = s.bus := rfl
@[simp] theorem State.emit_agenda (e : Event) (s : State) : (s.emit e).agenda = s.agenda := rfl
@[simp] theorem State.emit_draws (e : Event) (s : State) : (s.emit e).draws = s.draws := rfl

@[simp] theorem State.countMissed_rclk (b : Bool) (s : State) : (s.countMissed b).rclk = s.rclk := by unfold State.countMissed; split <;> rfl
@[simp] theorem State.countMissed_rrst (b : Bool) (s : State) : (s.countMissed b).rrst = s.rrst := by unfold State.countMissed; split <;> rfl
@[simp] theorem State.countMissed_latch (b : Bool) (s : State) : (s.countMissed b).latch = s.latch := by unfold State.countMissed; split <;> rfl
@[simp] theorem State.countMissed_hi (b : Bool) (s : State) : (s.countMissed b).hi = s.hi := by unfold State.countMissed; split <;> rfl
@[simp] theorem State.countMissed_lo (b : Bool) (s : State) : (s.countMissed b).lo = s.lo := by unfold State.countMissed; split <;> rfl
@[simp] theorem State.countMissed_pix16 (b : Bool) (s : State) : (s.countMissed b).pix16 = s.pix16 := by unfold State.countMissed; split <;> rfl
@[simp] theorem State.countMissed_ready (b : Bool) (s : State) : (s.countMissed b).ready = s.ready := by unfold State.countMissed; split <;> rfl
@[simp] theorem State.countMissed_fvPending (b : Bool) (s : State) : (s.countMissed b).fvPending = s.fvPending := by unfold State.countMissed; split <;> rfl
@[simp] theorem State.countMissed_frameCount (b : Bool) (s : State) : (s.countMissed b).frameCount = s.frameCount := by unfold State.countMissed; split <;> rfl
@[simp] theorem State.countMissed_cmd (b : Bool) (s : State) : (s.countMissed b).cmd = s.cmd := by unfold State.countMissed; split <;> rfl
@[simp] theorem State.countMissed_upc (b : Bool) (s : State) : (s.countMissed b).upc = s.upc := by unfold State.countMissed; split <;> rfl
@[simp] theorem State.countMissed_err (b : Bool) (s : State) : (s.countMissed b).err = s.err := by unfold State.countMissed; split <;> rfl
@[simp] theorem State.countMissed_hist (b : Bool) (s : State) : (s.countMissed b).hist = s.hist := by unfold State.countMissed; split <;> rfl
@[simp] theorem State.countMissed_txReady (b : Bool) (s : State) : (s.countMissed b).txReady = s.txReady := by unfold State.countMissed; split <;> rfl
@[simp] theorem State.countMissed_cmdPort (b : Bool) (s : State) : (s.countMissed b).cmdPort = s.cmdPort := by unfold State.countMissed; split <;> rfl
@[simp] theorem State.countMissed_params (b : Bool) (s : State) : (s.countMissed b).params = s.params := by unfold State.countMissed; split <;> rfl
@[simp] theorem State.countMissed_bus (b : Bool) (s : State) : (s.countMissed b).bus = s.bus := by unfold State.countMissed; split <;> rfl
@[simp] theorem State.countMissed_agenda (b : Bool) (s : State) : (s.countMissed b).agenda = s.agenda := by unfold State.countMissed; split <;> rfl
@[simp] theorem State.countMissed_draws (b : Bool) (s : State) : (s.countMissed b).draws = s.draws := by unfold State.countMissed; split <;> rfl

@[simp] theorem State.frameValidEdge_rclk (s : State) : (s.frameValidEdge).rclk = s.rclk := by simp [State.frameValidEdge]
@[simp] theorem State.frameValidEdge_rrst (s : State) : (s.frameValidEdge).rrst = s.rrst := by simp [State.frameValidEdge]
@[simp] theorem State.frameValidEdge_latch (s : State) : (s.frameValidEdge).latch = s.latch := by simp [State.frameValidEdge]
@[simp] theorem State.frameValidEdge_hi (s : State) : (s.frameValidEdge).hi = s.hi := by simp [State.frameValidEdge]
@[simp] theorem State.frameValidEdge_lo (s : State) : (s.frameValidEdge).lo = s.lo := by simp [State.frameValidEdge]
@[simp] theorem State.frameValidEdge_pix16 (s : State) : (s.frameValidEdge).pix16 = s.pix16 := by simp [State.frameValidEdge]
@[simp] theorem State.frameValidEdge_ready (s : State) : (s.frameValidEdge).ready = s.ready := by simp [State.frameValidEdge]
@[simp] theorem State.frameValidEdge_fvPending (s : State) : (s.frameValidEdge).fvPending = true := by simp [State.frameValidEdge]
@[simp] theorem State.frameValidEdge_frameCount (s : State) : (s.frameValidEdge).frameCount = s.frameCount := by simp [State.frameValidEdge]
@[simp] theorem State.frameValidEdge_missedCount (s : State) : (s.frameValidEdge).missedCount = (s.countMissed s.fvPending).missedCount := by simp [State.frameValidEdge]
@[simp] theorem State.frameValidEdge_cmd (s : State) : (s.frameValidEdge).cmd = s.cmd := by simp [State.frameValidEdge]
@[simp] theorem State.frameValidEdge_upc (s : State) : (s.frameValidEdge).upc = s.upc := by simp [State.frameValidEdge]
@[simp] theorem State.frameValidEdge_err (s : State) : (s.frameValidEdge).err = s.err := by simp [State.frameValidEdge]
@[simp] theorem State.frameValidEdge_hist (s : State) : (s.frameValidEdge).hist = s.hist ++ [.fvEdge] := by simp [State.frameValidEdge]
@[simp] theorem State.frameValidEdge_txReady (s : State) : (s.frameValidEdge).txReady = s.txReady := by simp [State.frameValidEdge]
@[simp] theorem State.frameValidEdge_cmdPort (s : State) : (s.frameValidEdge).cmdPort = s.cmdPort := by simp [State.frameValidEdge]
@[simp] theorem State.frameValidEdge_params (s : State) : (s.frameValidEdge).params = s.params := by simp [State.frameValidEdge]
@[simp] theorem State.frameValidEdge_bus (s : State) : (s.frameValidEdge).bus = s.bus := by simp [State.frameValidEdge]
@[simp] theorem State.frameValidEdge_agenda (s : State) : (s.frameValidEdge).agenda = s.agenda := by simp [State.frameValidEdge]
@[simp] theorem State.frameValidEdge_draws (s : State) : (s.frameValidEdge).draws = s.draws := by simp [State.frameValidEdge]

@[simp] theorem State.ackFv_rclk (s : State) : (s.ackFv).rclk = s.rclk := by simp [State.ackFv]
@[simp] theorem State.ackFv_rrst (s : State) : (s.ackFv).rrst = s.rrst := by simp [State.ackFv]
@[simp] theorem State.ackFv_latch (s : State) : (s.ackFv).latch = s.latch := by simp [State.ackFv]
@[simp] theorem State.ackFv_hi (s : State) : (s.ackFv).hi = s.hi := by simp [State.ackFv]
@[simp] theorem State.ackFv_lo (s : State) : (s.ackFv).lo = s.lo := by simp [State.ackFv]
@[simp] theorem State.ackFv_pix16 (s : State) : (s.ackFv).pix16 = s.pix16 := by simp [State.ackFv]
@[simp] theorem State.ackFv_ready (s : State) : (s.ackFv).ready = s.ready := by simp [State.ackFv]
@[simp] theorem State.ackFv_fvPending (s : State) : (s.ackFv).fvPending = false := by simp [State.ackFv]
@[simp] theorem State.ackFv_frameCount (s : State) : (s.ackFv).frameCount = s.frameCount := by simp [State.ackFv]
@[simp] theorem State.ackFv_missedCount (s : State) : (s.ackFv).missedCount = (s.countMissed s.fvPending).missedCount := by simp [State.ackFv]
@[simp] theorem State.ackFv_cmd (s : State) : (s.ackFv).cmd = s.cmd := by simp [State.ackFv]
@[simp] theorem State.ackFv_upc (s : State) : (s.ackFv).upc = s.upc := by simp [State.ackFv]
@[simp] theorem State.ackFv_err (s : State) : (s.ackFv).err = s.err := by simp [State.ackFv]
@[simp] theorem State.ackFv_hist (s : State) : (s.ackFv).hist = s.hist ++ [.ackFv s.fvPending] := by simp [State.ackFv]
@[simp] theorem State.ackFv_txReady (s : State) : (s.ackFv).txReady = s.txReady := by simp [State.ackFv]
@[simp] theorem State.ackFv_cmdPort (s : State) : (s.ackFv).cmdPort = s.cmdPort := by simp [State.ackFv]
@[simp] theorem State.ackFv_params (s : State) : (s.ackFv).params = s.params := by simp [State.ackFv]
@[simp] theorem State.ackFv_bus (s : State) : (s.ackFv).bus = s.bus := by simp [State.ackFv]
@[simp] theorem State.ackFv_agenda (s : State) : (s.ackFv).agenda = s.agenda := by simp [State.ackFv]
@[simp] theorem State.ackFv_draws (s : State) : (s.ackFv).draws = s.draws := by simp [State.ackFv]

@[simp] theorem State.clearReady_rclk (s : State) : (s.clearReady).rclk = s.rclk := rfl
@[simp] theorem State.clearReady_rrst (s : State) : (s.clearReady).rrst = s.rrst := rfl
@[simp] theorem State.clearReady_latch (s : State) : (s.clearReady).latch = s.latch := rfl
@[simp] theorem State.clearReady_hi (s : State) : (s.clearReady).hi = s.hi := rfl
@[simp] theorem State.clearReady_lo (s : State) : (s.clearReady).lo = s.lo := rfl
@[simp] theorem State.clearReady_pix16 (s : State) : (s.clearReady).pix16 = s.pix16 := rfl
@[simp] theorem State.clearReady_ready (s : State) : (s.clearReady).ready = false := rfl
@[simp] theorem State.clearReady_fvPending (s : State) : (s.clearReady).fvPending = s.fvPending := rfl
@[simp] theorem State.clearReady_frameCount (s : State) : (s.clearReady).frameCount = bump s.params s.frameCount := rfl
@[simp] theorem State.clearReady_missedCount (s : State) : (s.clearReady).missedCount = s.missedCount := rfl
@[simp] theorem State.clearReady_cmd (s : State) : (s.clearReady).cmd = s.cmd := rfl
@[simp] theorem State.clearReady_upc (s : State) : (s.clearReady).upc = s.upc := rfl
@[simp] theorem State.clearReady_err (s : State) : (s.clearReady).err = s.err := rfl
@[simp] theorem State.clearReady_hist (s : State) : (s.clearReady).hist = s.hist ++ [.frameDone (bump s.params s.frameCount)] := rfl
@[simp] theorem State.clearReady_txReady (s : State) : (s.clearReady).txReady = s.txReady := rfl
@[simp] theorem State.clearReady_cmdPort (s : State) : (s.clearReady).cmdPort = s.cmdPort := rfl
@[simp] theorem State.clearReady_params (s : State) : (s.clearReady).params = s.params := rfl
@[simp] theorem State.clearReady_bus (s : State) : (s.clearReady).bus = s.bus := rfl
@[simp] theorem State.clearReady_agenda (s : State) : (s.clearReady).agenda = s.agenda := rfl
@[simp] theorem State.clearReady_draws (s : State) : (s.clearReady).draws = s.draws := rfl

/-! ### Operands -/

@[simp] theorem State.drawByte_rclk (s : State) : (s.drawByte.2).rclk = s.rclk := rfl
@[simp] theorem State.drawByte_rrst (s : State) : (s.drawByte.2).rrst = s.rrst := rfl
@[simp] theorem State.drawByte_latch (s : State) : (s.drawByte.2).latch = s.latch := rfl
@[simp] theorem State.drawByte_hi (s : State) : (s.drawByte.2).hi = s.hi := rfl
@[simp] theorem State.drawByte_lo (s : State) : (s.drawByte.2).lo = s.lo := rfl
@[simp] theorem State.drawByte_pix16 (s : State) : (s.drawByte.2).pix16 = s.pix16 := rfl
@[simp] theorem State.drawByte_ready (s : State) : (s.drawByte.2).ready = s.ready := rfl
@[simp] theorem State.drawByte_fvPending (s : State) : (s.drawByte.2).fvPending = s.fvPending := rfl
@[simp] theorem State.drawByte_frameCount (s : State) : (s.drawByte.2).frameCount = s.frameCount := rfl
@[simp] theorem State.drawByte_missedCount (s : State) : (s.drawByte.2).missedCount = s.missedCount := rfl
@[simp] theorem State.drawByte_cmd (s : State) : (s.drawByte.2).cmd = s.cmd := rfl
@[simp] theorem State.drawByte_upc (s : State) : (s.drawByte.2).upc = s.upc := rfl
@[simp] theorem State.drawByte_err (s : State) : (s.drawByte.2).err = s.err := rfl
@[simp] theorem State.drawByte_hist (s : State) : (s.drawByte.2).hist = s.hist := rfl
@[simp] theorem State.drawByte_txReady (s : State) : (s.drawByte.2).txReady = s.txReady := rfl
@[simp] theorem State.drawByte_cmdPort (s : State) : (s.drawByte.2).cmdPort = s.cmdPort := rfl
@[simp] theorem State.drawByte_params (s : State) : (s.drawByte.2).params = s.params := rfl
@[simp] theorem State.drawByte_bus (s : State) : (s.drawByte.2).bus = s.bus := rfl
@[simp] theorem State.drawByte_agenda (s : State) : (s.drawByte.2).agenda = s.agenda := rfl
@[simp] theorem State.drawByte_draws (s : State) : (s.drawByte.2).draws = s.draws + 1 := rfl

@[simp] theorem State.busSample_rclk (s : State) : (s.busSample.2).rclk = s.rclk := by unfold State.busSample; split <;> rfl
@[simp] theorem State.busSample_rrst (s : State) : (s.busSample.2).rrst = s.rrst := by unfold State.busSample; split <;> rfl
@[simp] theorem State.busSample_latch (s : State) : (s.busSample.2).latch = s.latch := by unfold State.busSample; split <;> rfl
@[simp] theorem State.busSample_hi (s : State) : (s.busSample.2).hi = s.hi := by unfold State.busSample; split <;> rfl
@[simp] theorem State.busSample_lo (s : State) : (s.busSample.2).lo = s.lo := by unfold State.busSample; split <;> rfl
@[simp] theorem State.busSample_pix16 (s : State) : (s.busSample.2).pix16 = s.pix16 := by unfold State.busSample; split <;> rfl
@[simp] theorem State.busSample_ready (s : State) : (s.busSample.2).ready = s.ready := by unfold State.busSample; split <;> rfl
@[simp] theorem State.busSample_fvPending (s : State) : (s.busSample.2).fvPending = s.fvPending := by unfold State.busSample; split <;> rfl
@[simp] theorem State.busSample_frameCount (s : State) : (s.busSample.2).frameCount = s.frameCount := by unfold State.busSample; split <;> rfl
@[simp] theorem State.busSample_missedCount (s : State) : (s.busSample.2).missedCount = s.missedCount := by unfold State.busSample; split <;> rfl
@[simp] theorem State.busSample_cmd (s : State) : (s.busSample.2).cmd = s.cmd := by unfold State.busSample; split <;> rfl
@[simp] theorem State.busSample_upc (s : State) : (s.busSample.2).upc = s.upc := by unfold State.busSample; split <;> rfl
@[simp] theorem State.busSample_err (s : State) : (s.busSample.2).err = s.err := by unfold State.busSample; split <;> rfl
@[simp] theorem State.busSample_hist (s : State) : (s.busSample.2).hist = s.hist := by unfold State.busSample; split <;> rfl
@[simp] theorem State.busSample_txReady (s : State) : (s.busSample.2).txReady = s.txReady := by unfold State.busSample; split <;> rfl
@[simp] theorem State.busSample_cmdPort (s : State) : (s.busSample.2).cmdPort = s.cmdPort := by unfold State.busSample; split <;> rfl
@[simp] theorem State.busSample_params (s : State) : (s.busSample.2).params = s.params := by unfold State.busSample; split <;> rfl
@[simp] theorem State.busSample_agenda (s : State) : (s.busSample.2).agenda = s.agenda := by unfold State.busSample; split <;> rfl

@[simp] theorem State.byteOf_rclk (r : Option Byte) (s : State) : ((s.byteOf r).2).rclk = s.rclk := by cases r <;> rfl
@[simp] theorem State.byteOf_rrst (r : Option Byte) (s : State) : ((s.byteOf r).2).rrst = s.rrst := by cases r <;> rfl
@[simp] theorem State.byteOf_latch (r : Option Byte) (s : State) : ((s.byteOf r).2).latch = s.latch := by cases r <;> rfl
@[simp] theorem State.byteOf_hi (r : Option Byte) (s : State) : ((s.byteOf r).2).hi = s.hi := by cases r <;> rfl
@[simp] theorem State.byteOf_lo (r : Option Byte) (s : State) : ((s.byteOf r).2).lo = s.lo := by cases r <;> rfl
@[simp] theorem State.byteOf_pix16 (r : Option Byte) (s : State) : ((s.byteOf r).2).pix16 = s.pix16 := by cases r <;> rfl
@[simp] theorem State.byteOf_ready (r : Option Byte) (s : State) : ((s.byteOf r).2).ready = s.ready := by cases r <;> rfl
@[simp] theorem State.byteOf_fvPending (r : Option Byte) (s : State) : ((s.byteOf r).2).fvPending = s.fvPending := by cases r <;> rfl
@[simp] theorem State.byteOf_frameCount (r : Option Byte) (s : State) : ((s.byteOf r).2).frameCount = s.frameCount := by cases r <;> rfl
@[simp] theorem State.byteOf_missedCount (r : Option Byte) (s : State) : ((s.byteOf r).2).missedCount = s.missedCount := by cases r <;> rfl
@[simp] theorem State.byteOf_cmd (r : Option Byte) (s : State) : ((s.byteOf r).2).cmd = s.cmd := by cases r <;> rfl
@[simp] theorem State.byteOf_upc (r : Option Byte) (s : State) : ((s.byteOf r).2).upc = s.upc := by cases r <;> rfl
@[simp] theorem State.byteOf_err (r : Option Byte) (s : State) : ((s.byteOf r).2).err = s.err := by cases r <;> rfl
@[simp] theorem State.byteOf_hist (r : Option Byte) (s : State) : ((s.byteOf r).2).hist = s.hist := by cases r <;> rfl
@[simp] theorem State.byteOf_txReady (r : Option Byte) (s : State) : ((s.byteOf r).2).txReady = s.txReady := by cases r <;> rfl
@[simp] theorem State.byteOf_cmdPort (r : Option Byte) (s : State) : ((s.byteOf r).2).cmdPort = s.cmdPort := by cases r <;> rfl
@[simp] theorem State.byteOf_params (r : Option Byte) (s : State) : ((s.byteOf r).2).params = s.params := by cases r <;> rfl
@[simp] theorem State.byteOf_bus (r : Option Byte) (s : State) : ((s.byteOf r).2).bus = s.bus := by cases r <;> rfl
@[simp] theorem State.byteOf_agenda (r : Option Byte) (s : State) : ((s.byteOf r).2).agenda = s.agenda := by cases r <;> rfl

@[simp] theorem State.source_rclk (src : Src) (s : State) : ((s.source src).2).rclk = s.rclk := by cases src <;> simp [State.source]
@[simp] theorem State.source_rrst (src : Src) (s : State) : ((s.source src).2).rrst = s.rrst := by cases src <;> simp [State.source]
@[simp] theorem State.source_latch (src : Src) (s : State) : ((s.source src).2).latch = s.latch := by cases src <;> simp [State.source]
@[simp] theorem State.source_hi (src : Src) (s : State) : ((s.source src).2).hi = s.hi := by cases src <;> simp [State.source]
@[simp] theorem State.source_lo (src : Src) (s : State) : ((s.source src).2).lo = s.lo := by cases src <;> simp [State.source]
@[simp] theorem State.source_pix16 (src : Src) (s : State) : ((s.source src).2).pix16 = s.pix16 := by cases src <;> simp [State.source]
@[simp] theorem State.source_ready (src : Src) (s : State) : ((s.source src).2).ready = s.ready := by cases src <;> simp [State.source]
@[simp] theorem State.source_fvPending (src : Src) (s : State) : ((s.source src).2).fvPending = s.fvPending := by cases src <;> simp [State.source]
@[simp] theorem State.source_frameCount (src : Src) (s : State) : ((s.source src).2).frameCount = s.frameCount := by cases src <;> simp [State.source]
@[simp] theorem State.source_missedCount (src : Src) (s : State) : ((s.source src).2).missedCount = s.missedCount := by cases src <;> simp [State.source]
@[simp] theorem State.source_cmd (src : Src) (s : State) : ((s.source src).2).cmd = s.cmd := by cases src <;> simp [State.source]
@[simp] theorem State.source_upc (src : Src) (s : State) : ((s.source src).2).upc = s.upc := by cases src <;> simp [State.source]
@[simp] theorem State.source_err (src : Src) (s : State) : ((s.source src).2).err = s.err := by cases src <;> simp [State.source]
@[simp] theorem State.source_hist (src : Src) (s : State) : ((s.source src).2).hist = s.hist := by cases src <;> simp [State.source]
@[simp] theorem State.source_txReady (src : Src) (s : State) : ((s.source src).2).txReady = s.txReady := by cases src <;> simp [State.source]
@[simp] theorem State.source_cmdPort (src : Src) (s : State) : ((s.source src).2).cmdPort = s.cmdPort := by cases src <;> simp [State.source]
@[simp] theorem State.source_params (src : Src) (s : State) : ((s.source src).2).params = s.params := by cases src <;> simp [State.source]
@[simp] theorem State.source_bus (src : Src) (s : State) : ((s.source src).2).bus = s.bus := by cases src <;> simp [State.source]
@[simp] theorem State.source_agenda (src : Src) (s : State) : ((s.source src).2).agenda = s.agenda := by cases src <;> simp [State.source]

@[simp] theorem State.store_rclk (d : Dst) (v : Byte) (s : State) : (s.store d v).rclk = s.rclk := by cases d <;> rfl
@[simp] theorem State.store_rrst (d : Dst) (v : Byte) (s : State) : (s.store d v).rrst = s.rrst := by cases d <;> rfl
@[simp] theorem State.store_latch (d : Dst) (v : Byte) (s : State) : (s.store d v).latch = s.latch := by cases d <;> rfl
@[simp] theorem State.store_pix16 (d : Dst) (v : Byte) (s : State) : (s.store d v).pix16 = s.pix16 := by cases d <;> rfl
@[simp] theorem State.store_ready (d : Dst) (v : Byte) (s : State) : (s.store d v).ready = s.ready := by cases d <;> rfl
@[simp] theorem State.store_fvPending (d : Dst) (v : Byte) (s : State) : (s.store d v).fvPending = s.fvPending := by cases d <;> rfl
@[simp] theorem State.store_frameCount (d : Dst) (v : Byte) (s : State) : (s.store d v).frameCount = s.frameCount := by cases d <;> rfl
@[simp] theorem State.store_missedCount (d : Dst) (v : Byte) (s : State) : (s.store d v).missedCount = s.missedCount := by cases d <;> rfl
@[simp] theorem State.store_cmd (d : Dst) (v : Byte) (s : State) : (s.store d v).cmd = s.cmd := by cases d <;> rfl
@[simp] theorem State.store_upc (d : Dst) (v : Byte) (s : State) : (s.store d v).upc = s.upc := by cases d <;> rfl
@[simp] theorem State.store_err (d : Dst) (v : Byte) (s : State) : (s.store d v).err = s.err := by cases d <;> rfl
@[simp] theorem State.store_hist (d : Dst) (v : Byte) (s : State) : (s.store d v).hist = s.hist := by cases d <;> rfl
@[simp] theorem State.store_txReady (d : Dst) (v : Byte) (s : State) : (s.store d v).txReady = s.txReady := by cases d <;> rfl
@[simp] theorem State.store_cmdPort (d : Dst) (v : Byte) (s : State) : (s.store d v).cmdPort = s.cmdPort := by cases d <;> rfl
@[simp] theorem State.store_params (d : Dst) (v : Byte) (s : State) : (s.store d v).params = s.params := by cases d <;> rfl
@[simp] theorem State.store_bus (d : Dst) (v : Byte) (s : State) : (s.store d v).bus = s.bus := by cases d <;> rfl
@[simp] theorem State.store_agenda (d : Dst) (v : Byte) (s : State) : (s.store d v).agenda = s.agenda := by cases d <;> rfl
@[simp] theorem State.store_draws (d : Dst) (v : Byte) (s : State) : (s.store d v).draws = s.draws := by cases d <;> rfl

/-! ### Micro-operations, the sequencer and the other steps -/

@[simp] theorem State.driveRclk_rclk (l : Bool) (s : State) : (s.driveRclk l).rclk = l := rfl
@[simp] theorem State.driveRclk_rrst (l : Bool) (s : State) : (s.driveRclk l).rrst = s.rrst := rfl
@[simp] theorem State.driveRclk_latch (l : Bool) (s : State) : (s.driveRclk l).latch = s.latch := rfl
@[simp] theorem State.driveRclk_hi (l : Bool) (s : State) : (s.driveRclk l).hi = s.hi := rfl
@[simp] theorem State.driveRclk_lo (l : Bool) (s : State) : (s.driveRclk l).lo = s.lo := rfl
@[simp] theorem State.driveRclk_pix16 (l : Bool) (s : State) : (s.driveRclk l).pix16 = s.pix16 := rfl
@[simp] theorem State.driveRclk_ready (l : Bool) (s : State) : (s.driveRclk l).ready = s.ready := rfl
@[simp] theorem State.driveRclk_fvPending (l : Bool) (s : State) : (s.driveRclk l).fvPending = s.fvPending := rfl
@[simp] theorem State.driveRclk_frameCount (l : Bool) (s : State) : (s.driveRclk l).frameCount = s.frameCount := rfl
@[simp] theorem State.driveRclk_missedCount (l : Bool) (s : State) : (s.driveRclk l).missedCount = s.missedCount := rfl
@[simp] theorem State.driveRclk_cmd (l : Bool) (s : State) : (s.driveRclk l).cmd = s.cmd := rfl
@[simp] theorem State.driveRclk_upc (l : Bool) (s : State) : (s.driveRclk l).upc = s.upc := rfl
@[simp] theorem State.driveRclk_err (l : Bool) (s : State) : (s.driveRclk l).err = s.err := rfl
@[simp] theorem State.driveRclk_hist (l : Bool) (s : State) : (s.driveRclk l).hist = s.hist ++ [.rclk l] := rfl
@[simp] theorem State.driveRclk_txReady (l : Bool) (s : State) : (s.driveRclk l).txReady = s.txReady := rfl
@[simp] theorem State.driveRclk_cmdPort (l : Bool) (s : State) : (s.driveRclk l).cmdPort = s.cmdPort := rfl
@[simp] theorem State.driveRclk_params (l : Bool) (s : State) : (s.driveRclk l).params = s.params := rfl
@[simp] theorem State.driveRclk_bus (l : Bool) (s : State) : (s.driveRclk l).bus = s.bus := rfl
@[simp] theorem State.driveRclk_agenda (l : Bool) (s : State) : (s.driveRclk l).agenda = s.agenda := rfl
@[simp] theorem State.driveRclk_draws (l : Bool) (s : State) : (s.driveRclk l).draws = s.draws := rfl

@[simp] theorem State.driveRrst_rclk (a : Bool) (s : State) : (s.driveRrst a).rclk = s.rclk := rfl
@[simp] theorem State.driveRrst_rrst (a : Bool) (s : State) : (s.driveRrst a).rrst = a := rfl
@[simp] theorem State.driveRrst_latch (a : Bool) (s : State) : (s.driveRrst a).latch = s.latch := rfl
@[simp] theorem State.driveRrst_hi (a : Bool) (s : State) : (s.driveRrst a).hi = s.hi := rfl
@[simp] theorem State.driveRrst_lo (a : Bool) (s : State) : (s.driveRrst a).lo = s.lo := rfl
@[simp] theorem State.driveRrst_pix16 (a : Bool) (s : State) : (s.driveRrst a).pix16 = s.pix16 := rfl
@[simp] theorem State.driveRrst_ready (a : Bool) (s : State) : (s.driveRrst a).ready = s.ready := rfl
@[simp] theorem State.driveRrst_fvPending (a : Bool) (s : State) : (s.driveRrst a).fvPending = s.fvPending := rfl
@[simp] theorem State.driveRrst_frameCount (a : Bool) (s : State) : (s.driveRrst a).frameCount = s.frameCount := rfl
@[simp] theorem State.driveRrst_missedCount (a : Bool) (s : State) : (s.driveRrst a).missedCount = s.missedCount := rfl
@[simp] theorem State.driveRrst_cmd (a : Bool) (s : State) : (s.driveRrst a).cmd = s.cmd := rfl
@[simp] theorem State.driveRrst_upc (a : Bool) (s : State) : (s.driveRrst a).upc = s.upc := rfl
@[simp] theorem State.driveRrst_err (a : Bool) (s : State) : (s.driveRrst a).err = s.err := rfl
@[simp] theorem State.driveRrst_hist (a : Bool) (s : State) : (s.driveRrst a).hist = s.hist ++ [.rrst a] := rfl
@[simp] theorem State.driveRrst_txReady (a : Bool) (s : State) : (s.driveRrst a).txReady = s.txReady := rfl
@[simp] theorem State.driveRrst_cmdPort (a : Bool) (s : State) : (s.driveRrst a).cmdPort = s.cmdPort := rfl
@[simp] theorem State.driveRrst_params (a : Bool) (s : State) : (s.driveRrst a).params = s.params := rfl
@[simp] theorem State.driveRrst_bus (a : Bool) (s : State) : (s.driveRrst a).bus = s.bus := rfl
@[simp] theorem State.driveRrst_agenda (a : Bool) (s : State) : (s.driveRrst a).agenda = s.agenda := rfl
@[simp] theorem State.driveRrst_draws (a : Bool) (s : State) : (s.driveRrst a).draws = s.draws := rfl

@[simp] theorem State.sampleBus_rclk (d : Dst) (s : State) : (s.sampleBus d).rclk = s.rclk := by simp [State.sampleBus]
@[simp] theorem State.sampleBus_rrst (d : Dst) (s : State) : (s.sampleBus d).rrst = s.rrst := by simp [State.sampleBus]
@[simp] theorem State.sampleBus_latch (d : Dst) (s : State) : (s.sampleBus d).latch = some s.busSample.1 := by simp [State.sampleBus]
@[simp] theorem State.sampleBus_pix16 (d : Dst) (s : State) : (s.sampleBus d).pix16 = s.pix16 := by simp [State.sampleBus]
@[simp] theorem State.sampleBus_ready (d : Dst) (s : State) : (s.sampleBus d).ready = s.ready := by simp [State.sampleBus]
@[simp] theorem State.sampleBus_fvPending (d : Dst) (s : State) : (s.sampleBus d).fvPending = s.fvPending := by simp [State.sampleBus]
@[simp] theorem State.sampleBus_frameCount (d : Dst) (s : State) : (s.sampleBus d).frameCount = s.frameCount := by simp [State.sampleBus]
@[simp] theorem State.sampleBus_missedCount (d : Dst) (s : State) : (s.sampleBus d).missedCount = s.missedCount := by simp [State.sampleBus]
@[simp] theorem State.sampleBus_cmd (d : Dst) (s : State) : (s.sampleBus d).cmd = s.cmd := by simp [State.sampleBus]
@[simp] theorem State.sampleBus_upc (d : Dst) (s : State) : (s.sampleBus d).upc = s.upc := by simp [State.sampleBus]
@[simp] theorem State.sampleBus_err (d : Dst) (s : State) : (s.sampleBus d).err = s.err := by simp [State.sampleBus]
@[simp] theorem State.sampleBus_hist (d : Dst) (s : State) : (s.sampleBus d).hist = s.hist ++ [.sample s.busSample.1] := by simp [State.sampleBus]
@[simp] theorem State.sampleBus_txReady (d : Dst) (s : State) : (s.sampleBus d).txReady = s.txReady := by simp [State.sampleBus]
@[simp] theorem State.sampleBus_cmdPort (d : Dst) (s : State) : (s.sampleBus d).cmdPort = s.cmdPort := by simp [State.sampleBus]
@[simp] theorem State.sampleBus_params (d : Dst) (s : State) : (s.sampleBus d).params = s.params := by simp [State.sampleBus]
@[simp] theorem State.sampleBus_agenda (d : Dst) (s : State) : (s.sampleBus d).agenda = s.agenda := by simp [State.sampleBus]

@[simp] theorem State.transmit_rclk (src : Src) (s : State) : (s.transmit src).rclk = s.rclk := by simp [State.transmit]
@[simp] theorem State.transmit_rrst (src : Src) (s : State) : (s.transmit src).rrst = s.rrst := by simp [State.transmit]
@[simp] theorem State.transmit_latch (src : Src) (s : State) : (s.transmit src).latch = s.latch := by simp [State.transmit]
@[simp] theorem State.transmit_hi (src : Src) (s : State) : (s.transmit src).hi = s.hi := by simp [State.transmit]
@[simp] theorem State.transmit_lo (src : Src) (s : State) : (s.transmit src).lo = s.lo := by simp [State.transmit]
@[simp] theorem State.transmit_pix16 (src : Src) (s : State) : (s.transmit src).pix16 = s.pix16 := by simp [State.transmit]
@[simp] theorem State.transmit_ready (src : Src) (s : State) : (s.transmit src).ready = s.ready := by simp [State.transmit]
@[simp] theorem State.transmit_fvPending (src : Src) (s : State) : (s.transmit src).fvPending = s.fvPending := by simp [State.transmit]
@[simp] theorem State.transmit_frameCount (src : Src) (s : State) : (s.transmit src).frameCount = s.frameCount := by simp [State.transmit]
@[simp] theorem State.transmit_missedCount (src : Src) (s : State) : (s.transmit src).missedCount = s.missedCount := by simp [State.transmit]
@[simp] theorem State.transmit_cmd (src : Src) (s : State) : (s.transmit src).cmd = s.cmd := by simp [State.transmit]
@[simp] theorem State.transmit_upc (src : Src) (s : State) : (s.transmit src).upc = s.upc := by simp [State.transmit]
@[simp] theorem State.transmit_err (src : Src) (s : State) : (s.transmit src).err = s.err := by simp [State.transmit]
@[simp] theorem State.transmit_hist (src : Src) (s : State) : (s.transmit src).hist = s.hist ++ [.tx (s.source src).1] := by simp [State.transmit]
@[simp] theorem State.transmit_txReady (src : Src) (s : State) : (s.transmit src).txReady = s.txReady := by simp [State.transmit]
@[simp] theorem State.transmit_cmdPort (src : Src) (s : State) : (s.transmit src).cmdPort = s.cmdPort := by simp [State.transmit]
@[simp] theorem State.transmit_params (src : Src) (s : State) : (s.transmit src).params = s.params := by simp [State.transmit]
@[simp] theorem State.transmit_bus (src : Src) (s : State) : (s.transmit src).bus = s.bus := by simp [State.transmit]
@[simp] theorem State.transmit_agenda (src : Src) (s : State) : (s.transmit src).agenda = s.agenda := by simp [State.transmit]

@[simp] theorem State.putPixel_rclk (s : State) : (s.putPixel).rclk = s.rclk := by simp [State.putPixel]
@[simp] theorem State.putPixel_rrst (s : State) : (s.putPixel).rrst = s.rrst := by simp [State.putPixel]
@[simp] theorem State.putPixel_latch (s : State) : (s.putPixel).latch = s.latch := by simp [State.putPixel]
@[simp] theorem State.putPixel_hi (s : State) : (s.putPixel).hi = s.hi := by simp [State.putPixel]
@[simp] theorem State.putPixel_lo (s : State) : (s.putPixel).lo = s.lo := by simp [State.putPixel]
@[simp] theorem State.putPixel_ready (s : State) : (s.putPixel).ready = s.ready := by simp [State.putPixel]
@[simp] theorem State.putPixel_fvPending (s : State) : (s.putPixel).fvPending = s.fvPending := by simp [State.putPixel]
@[simp] theorem State.putPixel_frameCount (s : State) : (s.putPixel).frameCount = s.frameCount := by simp [State.putPixel]
@[simp] theorem State.putPixel_missedCount (s : State) : (s.putPixel).missedCount = s.missedCount := by simp [State.putPixel]
@[simp] theorem State.putPixel_cmd (s : State) : (s.putPixel).cmd = s.cmd := by simp [State.putPixel]
@[simp] theorem State.putPixel_upc (s : State) : (s.putPixel).upc = s.upc := by simp [State.putPixel]
@[simp] theorem State.putPixel_err (s : State) : (s.putPixel).err = s.err := by simp [State.putPixel]
@[simp] theorem State.putPixel_txReady (s : State) : (s.putPixel).txReady = s.txReady := by simp [State.putPixel]
@[simp] theorem State.putPixel_cmdPort (s : State) : (s.putPixel).cmdPort = s.cmdPort := by simp [State.putPixel]
@[simp] theorem State.putPixel_params (s : State) : (s.putPixel).params = s.params := by simp [State.putPixel]
@[simp] theorem State.putPixel_bus (s : State) : (s.putPixel).bus = s.bus := by simp [State.putPixel]
@[simp] theorem State.putPixel_agenda (s : State) : (s.putPixel).agenda = s.agenda := by simp [State.putPixel]

@[simp] theorem State.advance_rclk (n : Nat) (s : State) : (s.advance n).rclk = s.rclk := by unfold State.advance; split <;> rfl
@[simp] theorem State.advance_rrst (n : Nat) (s : State) : (s.advance n).rrst = s.rrst := by unfold State.advance; split <;> rfl
@[simp] theorem State.advance_latch (n : Nat) (s : State) : (s.advance n).latch = s.latch := by unfold State.advance; split <;> rfl
@[simp] theorem State.advance_hi (n : Nat) (s : State) : (s.advance n).hi = s.hi := by unfold State.advance; split <;> rfl
@[simp] theorem State.advance_lo (n : Nat) (s : State) : (s.advance n).lo = s.lo := by unfold State.advance; split <;> rfl
@[simp] theorem State.advance_pix16 (n : Nat) (s : State) : (s.advance n).pix16 = s.pix16 := by unfold State.advance; split <;> rfl
@[simp] theorem State.advance_ready (n : Nat) (s : State) : (s.advance n).ready = s.ready := by unfold State.advance; split <;> rfl
@[simp] theorem State.advance_fvPending (n : Nat) (s : State) : (s.advance n).fvPending = s.fvPending := by unfold State.advance; split <;> rfl
@[simp] theorem State.advance_frameCount (n : Nat) (s : State) : (s.advance n).frameCount = s.frameCount := by unfold State.advance; split <;> rfl
@[simp] theorem State.advance_missedCount (n : Nat) (s : State) : (s.advance n).missedCount = s.missedCount := by unfold State.advance; split <;> rfl
@[simp] theorem State.advance_err (n : Nat) (s : State) : (s.advance n).err = s.err := by unfold State.advance; split <;> rfl
@[simp] theorem State.advance_hist (n : Nat) (s : State) : (s.advance n).hist = s.hist := by unfold State.advance; split <;> rfl
@[simp] theorem State.advance_txReady (n : Nat) (s : State) : (s.advance n).txReady = s.txReady := by unfold State.advance; split <;> rfl
@[simp] theorem State.advance_cmdPort (n : Nat) (s : State) : (s.advance n).cmdPort = s.cmdPort := by unfold State.advance; split <;> rfl
@[simp] theorem State.advance_params (n : Nat) (s : State) : (s.advance n).params = s.params := by unfold State.advance; split <;> rfl
@[simp] theorem State.advance_bus (n : Nat) (s : State) : (s.advance n).bus = s.bus := by unfold State.advance; split <;> rfl
@[simp] theorem State.advance_agenda (n : Nat) (s : State) : (s.advance n).agenda = s.agenda := by unfold State.advance; split <;> rfl
@[simp] theorem State.advance_draws (n : Nat) (s : State) : (s.advance n).draws = s.draws := by unfold State.advance; split <;> rfl

@[simp] theorem State.raiseFault_rclk (c : ErrCode) (s : State) : (s.raiseFault c).rclk = s.rclk := rfl
@[simp] theorem State.raiseFault_rrst (c : ErrCode) (s : State) : (s.raiseFault c).rrst = s.rrst := rfl
@[simp] theorem State.raiseFault_latch (c : ErrCode) (s : State) : (s.raiseFault c).latch = s.latch := rfl
@[simp] theorem State.raiseFault_hi (c : ErrCode) (s : State) : (s.raiseFault c).hi = s.hi := rfl
@[simp] theorem State.raiseFault_lo (c : ErrCode) (s : State) : (s.raiseFault c).lo = s.lo := rfl
@[simp] theorem State.raiseFault_pix16 (c : ErrCode) (s : State) : (s.raiseFault c).pix16 = s.pix16 := rfl
@[simp] theorem State.raiseFault_ready (c : ErrCode) (s : State) : (s.raiseFault c).ready = s.ready := rfl
@[simp] theorem State.raiseFault_fvPending (c : ErrCode) (s : State) : (s.raiseFault c).fvPending = s.fvPending := rfl
@[simp] theorem State.raiseFault_frameCount (c : ErrCode) (s : State) : (s.raiseFault c).frameCount = s.frameCount := rfl
@[simp] theorem State.raiseFault_missedCount (c : ErrCode) (s : State) : (s.raiseFault c).missedCount = s.missedCount := rfl
@[simp] theorem State.raiseFault_cmd (c : ErrCode) (s : State) : (s.raiseFault c).cmd = s.cmd := rfl
@[simp] theorem State.raiseFault_upc (c : ErrCode) (s : State) : (s.raiseFault c).upc = s.upc := rfl
@[simp] theorem State.raiseFault_err (c : ErrCode) (s : State) : (s.raiseFault c).err = c := rfl
@[simp] theorem State.raiseFault_hist (c : ErrCode) (s : State) : (s.raiseFault c).hist = s.hist ++ [.fault c] := rfl
@[simp] theorem State.raiseFault_txReady (c : ErrCode) (s : State) : (s.raiseFault c).txReady = s.txReady := rfl
@[simp] theorem State.raiseFault_cmdPort (c : ErrCode) (s : State) : (s.raiseFault c).cmdPort = s.cmdPort := rfl
@[simp] theorem State.raiseFault_params (c : ErrCode) (s : State) : (s.raiseFault c).params = s.params := rfl
@[simp] theorem State.raiseFault_bus (c : ErrCode) (s : State) : (s.raiseFault c).bus = s.bus := rfl
@[simp] theorem State.raiseFault_agenda (c : ErrCode) (s : State) : (s.raiseFault c).agenda = s.agenda := rfl
@[simp] theorem State.raiseFault_draws (c : ErrCode) (s : State) : (s.raiseFault c).draws = s.draws := rfl

@[simp] theorem State.start_rclk (c : Instr) (r : Bool) (s : State) : (s.start c r).rclk = s.rclk := by unfold State.start; split <;> rfl
@[simp] theorem State.start_rrst (c : Instr) (r : Bool) (s : State) : (s.start c r).rrst = s.rrst := by unfold State.start; split <;> rfl
@[simp] theorem State.start_latch (c : Instr) (r : Bool) (s : State) : (s.start c r).latch = s.latch := by unfold State.start; split <;> rfl
@[simp] theorem State.start_hi (c : Instr) (r : Bool) (s : State) : (s.start c r).hi = s.hi := by unfold State.start; split <;> rfl
@[simp] theorem State.start_lo (c : Instr) (r : Bool) (s : State) : (s.start c r).lo = s.lo := by unfold State.start; split <;> rfl
@[simp] theorem State.start_pix16 (c : Instr) (r : Bool) (s : State) : (s.start c r).pix16 = s.pix16 := by unfold State.start; split <;> rfl
@[simp] theorem State.start_ready (c : Instr) (r : Bool) (s : State) : (s.start c r).ready = s.ready := by unfold State.start; split <;> rfl
@[simp] theorem State.start_fvPending (c : Instr) (r : Bool) (s : State) : (s.start c r).fvPending = s.fvPending := by unfold State.start; split <;> rfl
@[simp] theorem State.start_frameCount (c : Instr) (r : Bool) (s : State) : (s.start c r).frameCount = s.frameCount := by unfold State.start; split <;> rfl
@[simp] theorem State.start_missedCount (c : Instr) (r : Bool) (s : State) : (s.start c r).missedCount = s.missedCount := by unfold State.start; split <;> rfl
@[simp] theorem State.start_txReady (c : Instr) (r : Bool) (s : State) : (s.start c r).txReady = s.txReady := by unfold State.start; split <;> rfl
@[simp] theorem State.start_cmdPort (c : Instr) (r : Bool) (s : State) : (s.start c r).cmdPort = s.cmdPort := by unfold State.start; split <;> rfl
@[simp] theorem State.start_params (c : Instr) (r : Bool) (s : State) : (s.start c r).params = s.params := by unfold State.start; split <;> rfl
@[simp] theorem State.start_bus (c : Instr) (r : Bool) (s : State) : (s.start c r).bus = s.bus := by unfold State.start; split <;> rfl
@[simp] theorem State.start_agenda (c : Instr) (r : Bool) (s : State) : (s.start c r).agenda = s.agenda := by unfold State.start; split <;> rfl
@[simp] theorem State.start_draws (c : Instr) (r : Bool) (s : State) : (s.start c r).draws = s.draws := by unfold State.start; split <;> rfl

@[simp] theorem State.takeWord_rclk (w : Word) (s : State) : (s.takeWord w).rclk = s.rclk := rfl
@[simp] theorem State.takeWord_rrst (w : Word) (s : State) : (s.takeWord w).rrst = s.rrst := rfl
@[simp] theorem State.takeWord_latch (w : Word) (s : State) : (s.takeWord w).latch = s.latch := rfl
@[simp] theorem State.takeWord_hi (w : Word) (s : State) : (s.takeWord w).hi = s.hi := rfl
@[simp] theorem State.takeWord_lo (w : Word) (s : State) : (s.takeWord w).lo = s.lo := rfl
@[simp] theorem State.takeWord_pix16 (w : Word) (s : State) : (s.takeWord w).pix16 = s.pix16 := rfl
@[simp] theorem State.takeWord_ready (w : Word) (s : State) : (s.takeWord w).ready = s.ready := rfl
@[simp] theorem State.takeWord_fvPending (w : Word) (s : State) : (s.takeWord w).fvPending = s.fvPending := rfl
@[simp] theorem State.takeWord_frameCount (w : Word) (s : State) : (s.takeWord w).frameCount = s.frameCount := rfl
@[simp] theorem State.takeWord_missedCount (w : Word) (s : State) : (s.takeWord w).missedCount = s.missedCount := rfl
@[simp] theorem State.takeWord_cmd (w : Word) (s : State) : (s.takeWord w).cmd = s.cmd := rfl
@[simp] theorem State.takeWord_upc (w : Word) (s : State) : (s.takeWord w).upc = s.upc := rfl
@[simp] theorem State.takeWord_err (w : Word) (s : State) : (s.takeWord w).err = s.err := rfl
@[simp] theorem State.takeWord_hist (w : Word) (s : State) : (s.takeWord w).hist = s.hist ++ [.accept w] := rfl
@[simp] theorem State.takeWord_txReady (w : Word) (s : State) : (s.takeWord w).txReady = s.txReady := rfl
@[simp] theorem State.takeWord_cmdPort (w : Word) (s : State) : (s.takeWord w).cmdPort = none := rfl
@[simp] theorem State.takeWord_params (w : Word) (s : State) : (s.takeWord w).params = s.params := rfl
@[simp] theorem State.takeWord_bus (w : Word) (s : State) : (s.takeWord w).bus = s.bus := rfl
@[simp] theorem State.takeWord_agenda (w : Word) (s : State) : (s.takeWord w).agenda = s.agenda := rfl
@[simp] theorem State.takeWord_draws (w : Word) (s : State) : (s.takeWord w).draws = s.draws := rfl

@[simp] theorem State.interruptStep_rclk (s : State) : (s.interruptStep).rclk = s.rclk := by simp [State.interruptStep]
@[simp] theorem State.interruptStep_rrst (s : State) : (s.interruptStep).rrst = s.rrst := by simp [State.interruptStep]
@[simp] theorem State.interruptStep_latch (s : State) : (s.interruptStep).latch = s.latch := by simp [State.interruptStep]
@[simp] theorem State.interruptStep_hi (s : State) : (s.interruptStep).hi = s.hi := by simp [State.interruptStep]
@[simp] theorem State.interruptStep_lo (s : State) : (s.interruptStep).lo = s.lo := by simp [State.interruptStep]
@[simp] theorem State.interruptStep_pix16 (s : State) : (s.interruptStep).pix16 = s.pix16 := by simp [State.interruptStep]
@[simp] theorem State.interruptStep_ready (s : State) : (s.interruptStep).ready = true := by simp [State.interruptStep]
@[simp] theorem State.interruptStep_fvPending (s : State) : (s.interruptStep).fvPending = false := by simp [State.interruptStep]
@[simp] theorem State.interruptStep_frameCount (s : State) : (s.interruptStep).frameCount = s.frameCount := by simp [State.interruptStep]
@[simp] theorem State.interruptStep_missedCount (s : State) : (s.interruptStep).missedCount = ((s.emit (.isr s.ready)).countMissed s.ready).missedCount := by simp [State.interruptStep]
@[simp] theorem State.interruptStep_cmd (s : State) : (s.interruptStep).cmd = s.cmd := by simp [State.interruptStep]
@[simp] theorem State.interruptStep_upc (s : State) : (s.interruptStep).upc = s.upc := by simp [State.interruptStep]
@[simp] theorem State.interruptStep_err (s : State) : (s.interruptStep).err = s.err := by simp [State.interruptStep]
@[simp] theorem State.interruptStep_hist (s : State) : (s.interruptStep).hist = s.hist ++ [.isr s.ready] := by simp [State.interruptStep]
@[simp] theorem State.interruptStep_txReady (s : State) : (s.interruptStep).txReady = s.txReady := by simp [State.interruptStep]
@[simp] theorem State.interruptStep_cmdPort (s : State) : (s.interruptStep).cmdPort = s.cmdPort := by simp [State.interruptStep]
@[simp] theorem State.interruptStep_params (s : State) : (s.interruptStep).params = s.params := by simp [State.interruptStep]
@[simp] theorem State.interruptStep_bus (s : State) : (s.interruptStep).bus = s.bus := by simp [State.interruptStep]
@[simp] theorem State.interruptStep_agenda (s : State) : (s.interruptStep).agenda = s.agenda := by simp [State.interruptStep]
@[simp] theorem State.interruptStep_draws (s : State) : (s.interruptStep).draws = s.draws := by simp [State.interruptStep]

@[simp] theorem State.resetStep_rclk (s : State) : (s.resetStep).rclk = true := rfl
@[simp] theorem State.resetStep_rrst (s : State) : (s.resetStep).rrst = false := rfl
@[simp] theorem State.resetStep_latch (s : State) : (s.resetStep).latch = none := rfl
@[simp] theorem State.resetStep_hi (s : State) : (s.resetStep).hi = none := rfl
@[simp] theorem State.resetStep_lo (s : State) : (s.resetStep).lo = none := rfl
@[simp] theorem State.resetStep_pix16 (s : State) : (s.resetStep).pix16 = none := rfl
@[simp] theorem State.resetStep_ready (s : State) : (s.resetStep).ready = false := rfl
@[simp] theorem State.resetStep_fvPending (s : State) : (s.resetStep).fvPending = false := rfl
@[simp] theorem State.resetStep_frameCount (s : State) : (s.resetStep).frameCount = 0 := rfl
@[simp] theorem State.resetStep_missedCount (s : State) : (s.resetStep).missedCount = 0 := rfl
@[simp] theorem State.resetStep_cmd (s : State) : (s.resetStep).cmd = none := rfl
@[simp] theorem State.resetStep_upc (s : State) : (s.resetStep).upc = 0 := rfl
@[simp] theorem State.resetStep_err (s : State) : (s.resetStep).err = .none := rfl
@[simp] theorem State.resetStep_hist (s : State) : (s.resetStep).hist = s.hist ++ [.reset] := rfl
@[simp] theorem State.resetStep_txReady (s : State) : (s.resetStep).txReady = s.txReady := rfl
@[simp] theorem State.resetStep_cmdPort (s : State) : (s.resetStep).cmdPort = s.cmdPort := rfl
@[simp] theorem State.resetStep_params (s : State) : (s.resetStep).params = s.params := rfl
@[simp] theorem State.resetStep_bus (s : State) : (s.resetStep).bus = s.bus := rfl
@[simp] theorem State.resetStep_agenda (s : State) : (s.resetStep).agenda = s.agenda := rfl
@[simp] theorem State.resetStep_draws (s : State) : (s.resetStep).draws = s.draws := rfl
/-! ### The agents' moves -/

@[simp] theorem State.interruptMove_rclk (s : State) : (s.interruptMove).rclk = s.rclk := by unfold State.interruptMove; split <;> simp
@[simp] theorem State.interruptMove_rrst (s : State) : (s.interruptMove).rrst = s.rrst := by unfold State.interruptMove; split <;> simp
@[simp] theorem State.interruptMove_latch (s : State) : (s.interruptMove).latch = s.latch := by unfold State.interruptMove; split <;> simp
@[simp] theorem State.interruptMove_hi (s : State) : (s.interruptMove).hi = s.hi := by unfold State.interruptMove; split <;> simp
@[simp] theorem State.interruptMove_lo (s : State) : (s.interruptMove).lo = s.lo := by unfold State.interruptMove; split <;> simp
@[simp] theorem State.interruptMove_pix16 (s : State) : (s.interruptMove).pix16 = s.pix16 := by unfold State.interruptMove; split <;> simp
@[simp] theorem State.interruptMove_frameCount (s : State) : (s.interruptMove).frameCount = s.frameCount := by unfold State.interruptMove; split <;> simp
@[simp] theorem State.interruptMove_cmd (s : State) : (s.interruptMove).cmd = s.cmd := by unfold State.interruptMove; split <;> simp
@[simp] theorem State.interruptMove_upc (s : State) : (s.interruptMove).upc = s.upc := by unfold State.interruptMove; split <;> simp
@[simp] theorem State.interruptMove_err (s : State) : (s.interruptMove).err = s.err := by unfold State.interruptMove; split <;> simp
@[simp] theorem State.interruptMove_txReady (s : State) : (s.interruptMove).txReady = s.txReady := by unfold State.interruptMove; split <;> simp
@[simp] theorem State.interruptMove_cmdPort (s : State) : (s.interruptMove).cmdPort = s.cmdPort := by unfold State.interruptMove; split <;> simp
@[simp] theorem State.interruptMove_params (s : State) : (s.interruptMove).params = s.params := by unfold State.interruptMove; split <;> simp
@[simp] theorem State.interruptMove_bus (s : State) : (s.interruptMove).bus = s.bus := by unfold State.interruptMove; split <;> simp
@[simp] theorem State.interruptMove_agenda (s : State) : (s.interruptMove).agenda = s.agenda := by unfold State.interruptMove; split <;> simp
@[simp] theorem State.interruptMove_draws (s : State) : (s.interruptMove).draws = s.draws := by unfold State.interruptMove; split <;> simp

@[simp] theorem State.issueMove_rclk (w : Word) (s : State) : (s.issueMove w).rclk = s.rclk := by unfold State.issueMove; split <;> rfl
@[simp] theorem State.issueMove_rrst (w : Word) (s : State) : (s.issueMove w).rrst = s.rrst := by unfold State.issueMove; split <;> rfl
@[simp] theorem State.issueMove_latch (w : Word) (s : State) : (s.issueMove w).latch = s.latch := by unfold State.issueMove; split <;> rfl
@[simp] theorem State.issueMove_hi (w : Word) (s : State) : (s.issueMove w).hi = s.hi := by unfold State.issueMove; split <;> rfl
@[simp] theorem State.issueMove_lo (w : Word) (s : State) : (s.issueMove w).lo = s.lo := by unfold State.issueMove; split <;> rfl
@[simp] theorem State.issueMove_pix16 (w : Word) (s : State) : (s.issueMove w).pix16 = s.pix16 := by unfold State.issueMove; split <;> rfl
@[simp] theorem State.issueMove_ready (w : Word) (s : State) : (s.issueMove w).ready = s.ready := by unfold State.issueMove; split <;> rfl
@[simp] theorem State.issueMove_fvPending (w : Word) (s : State) : (s.issueMove w).fvPending = s.fvPending := by unfold State.issueMove; split <;> rfl
@[simp] theorem State.issueMove_frameCount (w : Word) (s : State) : (s.issueMove w).frameCount = s.frameCount := by unfold State.issueMove; split <;> rfl
@[simp] theorem State.issueMove_missedCount (w : Word) (s : State) : (s.issueMove w).missedCount = s.missedCount := by unfold State.issueMove; split <;> rfl
@[simp] theorem State.issueMove_cmd (w : Word) (s : State) : (s.issueMove w).cmd = s.cmd := by unfold State.issueMove; split <;> rfl
@[simp] theorem State.issueMove_upc (w : Word) (s : State) : (s.issueMove w).upc = s.upc := by unfold State.issueMove; split <;> rfl
@[simp] theorem State.issueMove_err (w : Word) (s : State) : (s.issueMove w).err = s.err := by unfold State.issueMove; split <;> rfl
@[simp] theorem State.issueMove_hist (w : Word) (s : State) : (s.issueMove w).hist = s.hist := by unfold State.issueMove; split <;> rfl
@[simp] theorem State.issueMove_txReady (w : Word) (s : State) : (s.issueMove w).txReady = s.txReady := by unfold State.issueMove; split <;> rfl
@[simp] theorem State.issueMove_params (w : Word) (s : State) : (s.issueMove w).params = s.params := by unfold State.issueMove; split <;> rfl
@[simp] theorem State.issueMove_bus (w : Word) (s : State) : (s.issueMove w).bus = s.bus := by unfold State.issueMove; split <;> rfl
@[simp] theorem State.issueMove_agenda (w : Word) (s : State) : (s.issueMove w).agenda = s.agenda := by unfold State.issueMove; split <;> rfl
@[simp] theorem State.issueMove_draws (w : Word) (s : State) : (s.issueMove w).draws = s.draws := by unfold State.issueMove; split <;> rfl

@[simp] theorem State.readMove_rclk (s : State) : (s.readMove).rclk = s.rclk := rfl
@[simp] theorem State.readMove_rrst (s : State) : (s.readMove).rrst = s.rrst := rfl
@[simp] theorem State.readMove_latch (s : State) : (s.readMove).latch = s.latch := rfl
@[simp] theorem State.readMove_hi (s : State) : (s.readMove).hi = s.hi := rfl
@[simp] theorem State.readMove_lo (s : State) : (s.readMove).lo = s.lo := rfl
@[simp] theorem State.readMove_pix16 (s : State) : (s.readMove).pix16 = s.pix16 := rfl
@[simp] theorem State.readMove_ready (s : State) : (s.readMove).ready = s.ready := rfl
@[simp] theorem State.readMove_fvPending (s : State) : (s.readMove).fvPending = s.fvPending := rfl
@[simp] theorem State.readMove_frameCount (s : State) : (s.readMove).frameCount = s.frameCount := rfl
@[simp] theorem State.readMove_missedCount (s : State) : (s.readMove).missedCount = s.missedCount := rfl
@[simp] theorem State.readMove_cmd (s : State) : (s.readMove).cmd = s.cmd := rfl
@[simp] theorem State.readMove_upc (s : State) : (s.readMove).upc = s.upc := rfl
@[simp] theorem State.readMove_err (s : State) : (s.readMove).err = s.err := rfl
@[simp] theorem State.readMove_hist (s : State) : (s.readMove).hist = s.hist := rfl
@[simp] theorem State.readMove_txReady (s : State) : (s.readMove).txReady = s.txReady := rfl
@[simp] theorem State.readMove_cmdPort (s : State) : (s.readMove).cmdPort = s.cmdPort := rfl
@[simp] theorem State.readMove_params (s : State) : (s.readMove).params = s.params := rfl
@[simp] theorem State.readMove_bus (s : State) : (s.readMove).bus = s.bus := rfl
@[simp] theorem State.readMove_agenda (s : State) : (s.readMove).agenda = s.agenda := rfl
@[simp] theorem State.readMove_draws (s : State) : (s.readMove).draws = s.draws + 1 := rfl

@[simp] theorem State.setTxReady_rclk (b : Bool) (s : State) : (s.setTxReady b).rclk = s.rclk := rfl
@[simp] theorem State.setTxReady_rrst (b : Bool) (s : State) : (s.setTxReady b).rrst = s.rrst := rfl
@[simp] theorem State.setTxReady_latch (b : Bool) (s : State) : (s.setTxReady b).latch = s.latch := rfl
@[simp] theorem State.setTxReady_hi (b : Bool) (s : State) : (s.setTxReady b).hi = s.hi := rfl
@[simp] theorem State.setTxReady_lo (b : Bool) (s : State) : (s.setTxReady b).lo = s.lo := rfl
@[simp] theorem State.setTxReady_pix16 (b : Bool) (s : State) : (s.setTxReady b).pix16 = s.pix16 := rfl
@[simp] theorem State.setTxReady_ready (b : Bool) (s : State) : (s.setTxReady b).ready = s.ready := rfl
@[simp] theorem State.setTxReady_fvPending (b : Bool) (s : State) : (s.setTxReady b).fvPending = s.fvPending := rfl
@[simp] theorem State.setTxReady_frameCount (b : Bool) (s : State) : (s.setTxReady b).frameCount = s.frameCount := rfl
@[simp] theorem State.setTxReady_missedCount (b : Bool) (s : State) : (s.setTxReady b).missedCount = s.missedCount := rfl
@[simp] theorem State.setTxReady_cmd (b : Bool) (s : State) : (s.setTxReady b).cmd = s.cmd := rfl
@[simp] theorem State.setTxReady_upc (b : Bool) (s : State) : (s.setTxReady b).upc = s.upc := rfl
@[simp] theorem State.setTxReady_err (b : Bool) (s : State) : (s.setTxReady b).err = s.err := rfl
@[simp] theorem State.setTxReady_hist (b : Bool) (s : State) : (s.setTxReady b).hist = s.hist := rfl
@[simp] theorem State.setTxReady_txReady (b : Bool) (s : State) : (s.setTxReady b).txReady = b := rfl
@[simp] theorem State.setTxReady_cmdPort (b : Bool) (s : State) : (s.setTxReady b).cmdPort = s.cmdPort := rfl
@[simp] theorem State.setTxReady_params (b : Bool) (s : State) : (s.setTxReady b).params = s.params := rfl
@[simp] theorem State.setTxReady_bus (b : Bool) (s : State) : (s.setTxReady b).bus = s.bus := rfl
@[simp] theorem State.setTxReady_agenda (b : Bool) (s : State) : (s.setTxReady b).agenda = s.agenda := rfl
@[simp] theorem State.setTxReady_draws (b : Bool) (s : State) : (s.setTxReady b).draws = s.draws := rfl

@[simp] theorem State.afterChoice_rclk (s : State) : (s.afterChoice).rclk = s.rclk := by unfold State.afterChoice; split <;> rfl
@[simp] theorem State.afterChoice_rrst (s : State) : (s.afterChoice).rrst = s.rrst := by unfold State.afterChoice; split <;> rfl
@[simp] theorem State.afterChoice_latch (s : State) : (s.afterChoice).latch = s.latch := by unfold State.afterChoice; split <;> rfl
@[simp] theorem State.afterChoice_hi (s : State) : (s.afterChoice).hi = s.hi := by unfold State.afterChoice; split <;> rfl
@[simp] theorem State.afterChoice_lo (s : State) : (s.afterChoice).lo = s.lo := by unfold State.afterChoice; split <;> rfl
@[simp] theorem State.afterChoice_pix16 (s : State) : (s.afterChoice).pix16 = s.pix16 := by unfold State.afterChoice; split <;> rfl
@[simp] theorem State.afterChoice_ready (s : State) : (s.afterChoice).ready = s.ready := by unfold State.afterChoice; split <;> rfl
@[simp] theorem State.afterChoice_fvPending (s : State) : (s.afterChoice).fvPending = s.fvPending := by unfold State.afterChoice; split <;> rfl
@[simp] theorem State.afterChoice_frameCount (s : State) : (s.afterChoice).frameCount = s.frameCount := by unfold State.afterChoice; split <;> rfl
@[simp] theorem State.afterChoice_missedCount (s : State) : (s.afterChoice).missedCount = s.missedCount := by unfold State.afterChoice; split <;> rfl
@[simp] theorem State.afterChoice_cmd (s : State) : (s.afterChoice).cmd = s.cmd := by unfold State.afterChoice; split <;> rfl
@[simp] theorem State.afterChoice_upc (s : State) : (s.afterChoice).upc = s.upc := by unfold State.afterChoice; split <;> rfl
@[simp] theorem State.afterChoice_err (s : State) : (s.afterChoice).err = s.err := by unfold State.afterChoice; split <;> rfl
@[simp] theorem State.afterChoice_hist (s : State) : (s.afterChoice).hist = s.hist := by unfold State.afterChoice; split <;> rfl
@[simp] theorem State.afterChoice_txReady (s : State) : (s.afterChoice).txReady = s.txReady := by unfold State.afterChoice; split <;> rfl
@[simp] theorem State.afterChoice_cmdPort (s : State) : (s.afterChoice).cmdPort = s.cmdPort := by unfold State.afterChoice; split <;> rfl
@[simp] theorem State.afterChoice_params (s : State) : (s.afterChoice).params = s.params := by unfold State.afterChoice; split <;> rfl
@[simp] theorem State.afterChoice_bus (s : State) : (s.afterChoice).bus = s.bus := by unfold State.afterChoice; split <;> rfl
/-! ### The counter of missed frames -/

/-- Without the option nothing is counted (R28). -/
theorem State.countMissed_off (b : Bool) (s : State) (h : s.params.missedFrameCounter = false) :
    s.countMissed b = s := by
  simp [State.countMissed, h]

/-- Nothing is counted where nothing is lost (R28). -/
@[simp] theorem State.countMissed_false (s : State) : s.countMissed false = s := by
  simp [State.countMissed]

/-- With the option, a lost frame adds one modulo 2^W (R28). -/
theorem State.countMissed_on (s : State) (h : s.params.missedFrameCounter = true) :
    s.countMissed true = { s with missedCount := bump s.params s.missedCount } := by
  simp [State.countMissed, h]

/-- The counter after a possibly missed frame (R28). -/
theorem State.countMissed_missedCount (b : Bool) (s : State) :
    (s.countMissed b).missedCount =
      if s.params.missedFrameCounter && b then bump s.params s.missedCount else s.missedCount := by
  unfold State.countMissed; split <;> rfl

/-- A counter step stays below 2^W (R27). -/
theorem bump_lt (p : Config.Params) (n : Nat) : bump p n < 2 ^ p.frameCountWidth :=
  Nat.mod_lt _ (Nat.two_pow_pos _)

/-! ### The operands -/

/-- A byte register that holds a value is read without a draw (R23). -/
@[simp] theorem State.byteOf_some (v : Byte) (s : State) : s.byteOf (some v) = (v, s) := rfl

/-- Where the environment lists a byte, a sample sees it (R66). -/
theorem State.busSample_cons {s : State} {v : Byte} {rest : List Byte} (h : s.bus = v :: rest) :
    s.busSample = (v, { s with bus := rest }) := by
  simp [State.busSample, h]

/-- Where it lists none, a sample draws a free byte (R66). -/
theorem State.busSample_nil {s : State} (h : s.bus = []) :
    s.busSample = (Config.freeByte s.draws, { s with draws := s.draws + 1 }) := by
  simp [State.busSample, h, State.drawByte]

/-- What `PIX` does, whether or not the byte registers hold values (R30, R23). -/
theorem State.putPixel_eq (s : State) :
    ∃ v d, s.putPixel = { s with pix16 := some v, draws := d, hist := s.hist ++ [.pix v] } ∧
      ∀ h l, s.hi = some h → s.lo = some l → v = h ++ l ∧ d = s.draws := by
  rcases hh : s.hi with _ | a <;> rcases hl : s.lo with _ | b <;>
    simp only [State.putPixel, hh, hl, State.byteOf, State.drawByte, State.emit] <;>
    exact ⟨_, _, rfl, by simp [pixelOf]⟩

/-- What `TX` does, whether or not the source holds a value (R30, R23). -/
theorem State.transmit_eq (src : Src) (s : State) :
    ∃ v d, s.transmit src = { s with draws := d, hist := s.hist ++ [.tx v] } ∧
      (∀ b, src = .imm b → v = b ∧ d = s.draws) ∧
      (∀ b, src = .hi → s.hi = some b → v = b ∧ d = s.draws) ∧
      (∀ b, src = .lo → s.lo = some b → v = b ∧ d = s.draws) := by
  cases src
  · exact ⟨_, _, rfl, by simp [State.source]⟩
  · rcases hh : s.hi with _ | a <;>
      simp only [State.transmit, State.source, hh, State.byteOf, State.drawByte, State.emit] <;>
      exact ⟨_, _, rfl, by simp⟩
  · rcases hh : s.lo with _ | a <;>
      simp only [State.transmit, State.source, hh, State.byteOf, State.drawByte, State.emit] <;>
      exact ⟨_, _, rfl, by simp⟩

/-! ### What no micro-operation touches (R30) -/

@[simp] theorem MicroOp.perform_cmd (s : State) (m : MicroOp) : (m.perform s).cmd = s.cmd := by
  cases m <;> simp [MicroOp.perform]

@[simp] theorem MicroOp.perform_upc (s : State) (m : MicroOp) : (m.perform s).upc = s.upc := by
  cases m <;> simp [MicroOp.perform]

@[simp] theorem MicroOp.perform_err (s : State) (m : MicroOp) : (m.perform s).err = s.err := by
  cases m <;> simp [MicroOp.perform]

@[simp] theorem MicroOp.perform_txReady (s : State) (m : MicroOp) : (m.perform s).txReady = s.txReady := by
  cases m <;> simp [MicroOp.perform]

@[simp] theorem MicroOp.perform_cmdPort (s : State) (m : MicroOp) : (m.perform s).cmdPort = s.cmdPort := by
  cases m <;> simp [MicroOp.perform]

@[simp] theorem MicroOp.perform_params (s : State) (m : MicroOp) : (m.perform s).params = s.params := by
  cases m <;> simp [MicroOp.perform]

@[simp] theorem MicroOp.perform_agenda (s : State) (m : MicroOp) : (m.perform s).agenda = s.agenda := by
  cases m <;> simp [MicroOp.perform]

/-! ### Retirement (R31) -/

/-- After the last micro-operation the block is idle (R31). -/
theorem State.advance_last {n : Nat} {s : State} (h : s.upc + 1 = n) :
    s.advance n = { s with cmd := none, upc := 0 } := by
  simp [State.advance, h]

/-- After any other micro-operation the sequencer stands one further (R31). -/
theorem State.advance_more {n : Nat} {s : State} (h : s.upc + 1 ≠ n) :
    s.advance n = { s with upc := s.upc + 1 } := by
  simp [State.advance, h]

end Sys2Proof.Machine
end

