-- ==== Sys2Proof/Laws/Step.lean ====
section
/-! SUPPORT. Once for each shared operation, everything it can do: the block step, the sequencer's answer to a command, exec,
a move, a step; and the lengths of the micro-programs (spec/10_state.md R24, R31). -/
namespace Sys2Proof.Machine

/-! ### Micro-programs -/

/-- `P^n` is `n` times as long as `P` (R12). -/
theorem repeated_length (p : List MicroOp) (n : Nat) : (repeated p n).length = p.length * n := by
  induction n with
  | zero => simp [repeated]
  | succ n ih => simp [repeated, ih, Nat.mul_succ]; omega

/-- `P^(n+1)` also ends with `P`. -/
theorem repeated_succ_right (p : List MicroOp) (n : Nat) : repeated p (n + 1) = repeated p n ++ p := by
  induction n with
  | zero => simp [repeated]
  | succ n ih =>
    show p ++ repeated p (n + 1) = (p ++ repeated p n) ++ p
    rw [ih, List.append_assoc]

/-- A micro-operation of `P^n` is one of `P`. -/
theorem mem_repeated {p : List MicroOp} {n : Nat} {m : MicroOp} (h : m ∈ repeated p n) : m ∈ p := by
  induction n with
  | zero => cases h
  | succ n ih =>
    rcases List.mem_append.mp h with h | h
    · exact h
    · exact ih h

/-- Position `k` of the `i`-th copy of `P` in `P^n`. -/
theorem repeated_getElem? (p : List MicroOp) (n i k : Nat) (hi : i < n) (hk : k < p.length) :
    (repeated p n)[p.length * i + k]? = p[k]? := by
  induction n generalizing i with
  | zero => omega
  | succ n ih =>
    rw [repeated]
    cases i with
    | zero => simp [List.getElem?_append_left hk]
    | succ j =>
      rw [List.getElem?_append_right (by rw [Nat.mul_succ]; omega),
        show p.length * (j + 1) + k - p.length = p.length * j + k by rw [Nat.mul_succ]; omega]
      exact ih j (by omega)

/-- The micro-program of a command has the length R24 lists. -/
theorem mu_length (n : Nat) (c : Instr) : (mu n c).length = muLength n c := by
  cases c
  case drd => simp [mu, muDrd, muLength, repeated_length, muRpr, muPxd]
  case drs => simp [mu, muDrs, muLength, repeated_length, muRpr, muPxs, muTxsm, muTxem]
  all_goals rfl

/-! ### Commands -/

/-- A meaning is the sequencer's answer to its command, with its micro-program and length. -/
theorem exec_eq_command (i : Instr) (s : State) :
    exec i s = command i (isDrain i) (mu s.params.pixelCount i) (muLength s.params.pixelCount i) s := by
  cases i <;> rfl

/-- The block step that answers a next state performed an enabled micro-operation, or held. -/
theorem blockStep_next {p : List MicroOp} {n : Nat} {s t : State} (h : blockStep p n s = .next t) :
    ∃ m, p[s.upc]? = some m ∧
      ((m.enabled s = true ∧ t = (m.perform s).advance n) ∨ (m.enabled s = false ∧ t = s)) := by
  unfold blockStep at h
  split at h
  · cases h
  · rename_i m hm
    refine ⟨m, hm, ?_⟩
    split at h
    · rename_i he
      exact .inl ⟨he, (Host.Outcome.next.inj h).symm⟩
    · rename_i he
      exact .inr ⟨by simpa using he, (Host.Outcome.next.inj h).symm⟩

/-- What an answered command can have done: nothing (faulted, or another command in progress), the end of the acceptance,
an enabled micro-operation, or a hold. -/
theorem exec_next {i : Instr} {s t : State} (h : exec i s = .next t) :
    (t = s ∧ (s.err ≠ .none ∨ ∃ d, s.cmd = some d ∧ d ≠ i)) ∨
    (s.err = .none ∧ s.cmd = none ∧ t = s.start i (isDrain i)) ∨
    (s.err = .none ∧ s.cmd = some i ∧ ∃ m, (mu s.params.pixelCount i)[s.upc]? = some m ∧
      ((m.enabled s = true ∧ t = (m.perform s).advance (muLength s.params.pixelCount i)) ∨
        (m.enabled s = false ∧ t = s))) := by
  rw [exec_eq_command] at h
  unfold command at h
  split at h
  · rename_i he
    split at h
    · rename_i hc
      exact .inr (.inl ⟨he, hc, (Host.Outcome.next.inj h).symm⟩)
    · rename_i d hc
      split at h
      · rename_i hd
        subst hd
        exact .inr (.inr ⟨he, hc, blockStep_next h⟩)
      · rename_i hd
        exact .inl ⟨(Host.Outcome.next.inj h).symm, .inr ⟨d, hc, hd⟩⟩
  · rename_i he
    exact .inl ⟨(Host.Outcome.next.inj h).symm, .inl he⟩

/-- The idle, unfaulted block handed a command ends its acceptance (R86). -/
theorem exec_idle {i : Instr} {s : State} (he : s.err = .none) (hc : s.cmd = none) :
    exec i s = .next (s.start i (isDrain i)) := by
  rw [exec_eq_command]; simp [command, he, hc]

/-- A command in progress takes its block step (R31). -/
theorem exec_busy {i : Instr} {s : State} (he : s.err = .none) (hc : s.cmd = some i) :
    exec i s = blockStep (mu s.params.pixelCount i) (muLength s.params.pixelCount i) s := by
  rw [exec_eq_command]; simp [command, he, hc]

/-- A drain accepted with READY = 0, and no other start, raises a fault (R86). -/
theorem State.start_cases (c : Instr) (r : Bool) (s : State) :
    (r = true ∧ s.ready = false ∧ s.start c r = s.raiseFault .drainNotReady) ∨
      ((r = true → s.ready = true) ∧ s.start c r = { s with cmd := some c, upc := 0 }) := by
  unfold State.start
  cases r <;> cases s.ready <;> simp

/-- At position `k` a command performs its enabled micro-operation and advances (R31). -/
theorem exec_at {c : Instr} {s : State} {k : Nat} {m : MicroOp} (h : s.At c k)
    (hm : (mu s.params.pixelCount c)[k]? = some m) (he : m.enabled s = true) :
    exec c s = .next ((m.perform s).advance (muLength s.params.pixelCount c)) := by
  obtain ⟨h1, h2, rfl⟩ := h
  rw [exec_busy h1 h2]
  simp [blockStep, hm, he]

/-! ### Moves and steps -/

/-- What the block's turn can have done: nothing while faulted or with nothing to do, the next answer of the command in
progress, an acceptance that decoded a command, or an illegal word. -/
theorem blockMove_next {s t : State} (h : blockMove s = .next t) :
    (t = s ∧ (s.err ≠ .none ∨ (s.cmd = none ∧ s.cmdPort = none))) ∨
    (s.err = .none ∧ ∃ c, s.cmd = some c ∧ exec c s = .next t) ∨
    (s.err = .none ∧ s.cmd = none ∧ ∃ w, s.cmdPort = some w ∧
      ((∃ i, decode w = some i ∧ exec i (s.takeWord w) = .next t) ∨
        (decode w = none ∧ t = (s.takeWord w).raiseFault .illegalCmd))) := by
  unfold blockMove at h
  split at h
  · rename_i he
    split at h
    · rename_i c hc
      exact .inr (.inl ⟨he, c, hc, h⟩)
    · rename_i hc
      split at h
      · rename_i w hw
        refine .inr (.inr ⟨he, hc, w, hw, ?_⟩)
        unfold acceptWord at h
        split at h
        · rename_i hd
          exact .inr ⟨hd, (Host.Outcome.next.inj h).symm⟩
        · rename_i i hd
          exact .inl ⟨i, hd, h⟩
      · rename_i hw
        exact .inl ⟨(Host.Outcome.next.inj h).symm, .inr ⟨hc, hw⟩⟩
  · rename_i he
    exact .inl ⟨(Host.Outcome.next.inj h).symm, .inl he⟩

/-- What a move can have done. -/
theorem take_next {m : Config.Move} {s t : State} (h : take m s = .next t) :
    (m = .block ∧ blockMove s = .next t) ∨ (m = .interrupt ∧ t = s.interruptMove) ∨
    (∃ w, m = .issue w ∧ t = s.issueMove w) ∨ (∃ p, m = .read p ∧ t = s.readMove) ∨
    (m = .reset ∧ t = s.resetStep) ∨ (∃ b, m = .setTxReady b ∧ t = s.setTxReady b) ∨
    (m = .fvEdge ∧ t = s.frameValidEdge) := by
  cases m <;> simp [take] at h ⊢ <;> simp_all

/-- A step is the next move, taken once it has been chosen. -/
theorem step_eq (s : State) : step s = take s.nextMove s.afterChoice := rfl

/-- The next move is the agenda's first. -/
theorem State.nextMove_cons {s : State} {m : Config.Move} {ms : List Config.Move} (h : s.agenda = m :: ms) :
    s.nextMove = m := by
  simp [State.nextMove, h]

/-- Choosing it takes it off the agenda. -/
theorem State.afterChoice_cons {s : State} {m : Config.Move} {ms : List Config.Move} (h : s.agenda = m :: ms) :
    s.afterChoice = { s with agenda := ms } := by
  simp [State.afterChoice, h]

/-- A step whose agenda begins with a move takes that move. -/
theorem step_cons {s : State} {m : Config.Move} {ms : List Config.Move} (h : s.agenda = m :: ms) :
    step s = take m { s with agenda := ms } := by
  rw [step_eq, State.nextMove_cons h, State.afterChoice_cons h]

/-- Everything a step can do, once the move is chosen. -/
inductive StepCase (s t : State) : Prop where
  /-- The agent has no enabled step, or the block holds at a `TX`. -/
  | stutter (h : t = s.afterChoice)
  /-- The block accepts an illegal word (R86). -/
  | illegal (w : Word) (hm : s.nextMove = .block) (he : s.err = .none) (hc : s.cmd = none)
      (hw : s.cmdPort = some w) (hd : decode w = none)
      (h : t = (s.afterChoice.takeWord w).raiseFault .illegalCmd)
  /-- The block accepts a command (R86). -/
  | accepted (w : Word) (i : Instr) (hm : s.nextMove = .block) (he : s.err = .none) (hc : s.cmd = none)
      (hw : s.cmdPort = some w) (hd : decode w = some i)
      (h : t = (s.afterChoice.takeWord w).start i (isDrain i))
  /-- The block performs a micro-operation (R31). -/
  | performed (c : Instr) (m : MicroOp) (hm : s.nextMove = .block) (he : s.err = .none) (hc : s.cmd = some c)
      (hp : (mu s.params.pixelCount c)[s.upc]? = some m) (hen : m.enabled s = true)
      (h : t = (m.perform s.afterChoice).advance (muLength s.params.pixelCount c))
  /-- The interrupt step (R210). -/
  | interrupt (hm : s.nextMove = .interrupt) (hf : s.fvPending = true) (h : t = s.afterChoice.interruptStep)
  /-- The host presents a word (R35 (a)). -/
  | issue (w : Word) (hm : s.nextMove = .issue w) (hw : s.cmdPort = none)
      (h : t = { s.afterChoice with cmdPort := some w })
  /-- The host reads a port (R35 (b)). -/
  | read (p : Config.OutPort) (hm : s.nextMove = .read p) (h : t = s.afterChoice.readMove)
  /-- The reset step (R250). -/
  | reset (hm : s.nextMove = .reset) (h : t = s.afterChoice.resetStep)
  /-- TX_READY changes (R34 (a)). -/
  | setTxReady (b : Bool) (hm : s.nextMove = .setTxReady b) (h : t = s.afterChoice.setTxReady b)
  /-- A frame-valid edge (R34 (b)). -/
  | fvEdge (hm : s.nextMove = .fvEdge) (h : t = s.afterChoice.frameValidEdge)

/-- Only `txReady` decides whether a micro-operation is enabled (R30). -/
theorem MicroOp.enabled_afterChoice (m : MicroOp) (s : State) : m.enabled s.afterChoice = m.enabled s := by
  cases m <;> simp [MicroOp.enabled]

/-- A step that answers a next state is one of these cases. -/
theorem step_next {s t : State} (h : step s = .next t) : StepCase s t := by
  rcases take_next h with ⟨hm, hb⟩ | ⟨hm, rfl⟩ | ⟨w, hm, rfl⟩ | ⟨p, hm, rfl⟩ | ⟨hm, rfl⟩ | ⟨b, hm, rfl⟩ | ⟨hm, rfl⟩
  · rcases blockMove_next hb with ⟨rfl, _⟩ | ⟨he, c, hc, hx⟩ | ⟨he, hc, w, hw, ⟨i, hd, hx⟩ | ⟨hd, rfl⟩⟩
    · exact .stutter rfl
    · rcases exec_next hx with ⟨rfl, _⟩ | ⟨_, hn, _⟩ | ⟨_, _, m, hp, ⟨hen, rfl⟩ | ⟨_, rfl⟩⟩
      · exact .stutter rfl
      · rw [hc] at hn; cases hn
      · exact .performed c m hm (by simpa using he) (by simpa using hc) (by simpa using hp)
          (by rw [← MicroOp.enabled_afterChoice]; exact hen) (by simp)
      · exact .stutter rfl
    · have he' : (s.afterChoice.takeWord w).err = .none := by simpa using he
      have hc' : (s.afterChoice.takeWord w).cmd = none := by simpa using hc
      rw [exec_idle he' hc'] at hx
      exact .accepted w i hm (by simpa using he) (by simpa using hc) (by simpa using hw) hd
        (Host.Outcome.next.inj hx).symm
    · exact .illegal w hm (by simpa using he) (by simpa using hc) (by simpa using hw) hd rfl
  · by_cases hf : s.fvPending = true
    · exact .interrupt hm hf (by simp [State.interruptMove, hf])
    · exact .stutter (by simp [State.interruptMove, hf])
  · rcases hw : s.cmdPort with _ | v
    · exact .issue w hm hw (by simp [State.issueMove, hw])
    · exact .stutter (by simp [State.issueMove, hw])
  · exact .read p hm rfl
  · exact .reset hm rfl
  · exact .setTxReady b hm rfl
  · exact .fvEdge hm rfl

end Sys2Proof.Machine
end

