-- ==== Sys2Proof/Tests/Slice0.lean ====
section
/-! SUPPORT. The model's own tests: what is well formed, the words of spec/30_encoding.md, single steps of the vectors of
spec/95_test_vectors.md, and for every statement with hypotheses a state that meets them. -/
namespace Sys2Proof.Machine.Tests

/-! ### Well-formedness -/

theorem test_legal_word_refuses_a_nonzero_operand : legalWord 0x0101 = false := by decide
theorem test_legal_word_refuses_an_unassigned_op : legalWord 0x0500 = false := by decide
theorem test_legal_word_takes_every_txb_operand : legalWord 0x10FF = true := by decide
theorem test_params_refuse_an_empty_frame : { Config.defaults with pixelCount := 0 }.wellFormed = false := by decide
theorem test_params_take_one_pixel : { Config.defaults with pixelCount := 1 }.wellFormed = true := by decide

/-! ### Decoding (R80, R83, R84): one word per command, OP in bits 15:8 and IMM8 in bits 7:0, bit by bit -/

theorem test_decode_rdb : decode 0b0000000100000000 = some .rdb := by decide
theorem test_decode_rpr : decode 0b0000001000000000 = some .rpr := by decide
theorem test_decode_pxd : decode 0b0000001100000000 = some .pxd := by decide
theorem test_decode_pxs : decode 0b0000010000000000 = some .pxs := by decide
theorem test_decode_txb : decode 0b0001000001000001 = some (.txb 0x41) := by decide
theorem test_decode_txsm : decode 0b0001000100000000 = some .txsm := by decide
theorem test_decode_txem : decode 0b0001001000000000 = some .txem := by decide
theorem test_decode_drd : decode 0b0010000000000000 = some .drd := by decide
theorem test_decode_drs : decode 0b0010000100000000 = some .drs := by decide

/-- The words of 95_test_vectors.md 2.1 that decode to none. -/
theorem test_decode_none :
    [0x0101, 0x02FF, 0x0500, 0x1101, 0x1300, 0x2001, 0x2200, 0x0000, 0x0001, 0x8000, 0xFFFF].map decode =
      List.replicate 11 none := by decide

theorem test_decode_names_the_reason :
    decodeWord 0x0101 = .error (.operandNotZero 0x01 0x01) ∧ decodeWord 0x1300 = .error (.unassignedOp 0x13) := by
  exact ⟨rfl, rfl⟩

theorem test_table_word : decodeTableWord 16 0x10FF = some (.txb 0xFF) := by decide

/-! ### States -/

/-- S0 of 95_test_vectors.md, with N pixels, W-bit counters, and the missed-frame counter if `option` holds. -/
def s0 (n w : Nat) (option : Bool) : State :=
  { State.reset with
    txReady := true
    params := { Config.defaults with pixelCount := n, frameCountWidth := w, missedFrameCounter := option } }

/-- S0 with one pixel to a frame and 32-bit counters. -/
def base : State := s0 1 32 false

/-- Command `c` in progress, micro-operation `k` next. -/
def atPos (c : Instr) (k : Nat) : State := { base with cmd := some c, upc := k }

/-- `base` with a word on CMD and the block's turn next. -/
def presented (w : Word) : State := { base with cmdPort := some w, agenda := [.block] }

/-- `base` with one move to come. -/
def about (m : Config.Move) : State := { base with agenda := [m] }

/-! ### Reset and the word placed by the host -/

theorem test_reset_status : base.status = 0x0048 ∧ base.cmdReady = true := by decide

/-- RS2: with TX_READY = 0 a reset gives STATUS 0x0040. -/
theorem test_reset_of_a_stalled_drain :
    ({ atPos .drs 6 with txReady := false, ready := true }).resetStep.status = 0x0040 := by decide

theorem test_placed_word_is_accepted :
    step (State.reset.withFetchWord 16 0x0100) =
      .next { State.reset with cmd := some .rdb, hist := [.reset, .accept 0x0100] } := rfl

/-! ### Single steps of the vectors -/

/-- RD1: the acceptance step of RDB; STATUS 0x004C. -/
theorem test_rdb_accepted :
    step (presented 0x0100) = .next { atPos .rdb 0 with hist := [.reset, .accept 0x0100] } ∧
      (atPos .rdb 0).status = 0x004C := ⟨rfl, by decide⟩

/-- RD1: the sample writes the latch only. -/
theorem test_rdb_samples :
    exec .rdb { atPos .rdb 1 with rclk := false, bus := [0xA5, 0x3C] } =
      .next { atPos .rdb 2 with
        rclk := false, bus := [0x3C], latch := some 0xA5, hist := [.reset, .sample 0xA5] } := rfl

/-- V5: the first drive of a rewind; STATUS then shows RRST, RCLK, TX_READY and BUSY. -/
theorem test_rpr_asserts_first :
    exec .rpr (atPos .rpr 0) = .next { atPos .rpr 1 with rrst := true, hist := [.reset, .rrst true] } ∧
      { atPos .rpr 1 with rrst := true }.status = 0x00CC := ⟨rfl, by decide⟩

/-- V5: the rewind ends with the clock high and the line de-asserted. -/
theorem test_rpr_retires :
    exec .rpr { atPos .rpr 5 with rclk := false } = .next { base with hist := [.reset, .rclk true] } := rfl

/-- PX3: 80 00 is pixel 0x8000, high byte first. -/
theorem test_pxd_forwards :
    exec .pxd { atPos .pxd 6 with hi := some 0x80, lo := some 0x00 } =
      .next { base with
        hi := some 0x80, lo := some 0x00, pix16 := some 0x8000, hist := [.reset, .pix 0x8000] } := rfl

/-- PX4: the second sample goes to `lo`. -/
theorem test_pxd_samples_low :
    exec .pxd { atPos .pxd 4 with hi := some 0x00, bus := [0xFF] } =
      .next { atPos .pxd 5 with
        hi := some 0x00, lo := some 0xFF, latch := some 0xFF, bus := [], hist := [.reset, .sample 0xFF] } := rfl

/-- PS3: PXS holds at `upc` 6 while TX_READY is 0; STATUS 0x0044. -/
theorem test_pxs_holds :
    exec .pxs { atPos .pxs 6 with txReady := false, hi := some 0xAB } =
        .next { atPos .pxs 6 with txReady := false, hi := some 0xAB } ∧
      { atPos .pxs 6 with txReady := false }.status = 0x0044 := ⟨rfl, by decide⟩

/-- PS1: a marker-valued byte is sent raw, the low byte last. -/
theorem test_pxs_sends_low_last :
    exec .pxs { atPos .pxs 7 with hi := some 0x01, lo := some 0xFE } =
      .next { base with hi := some 0x01, lo := some 0xFE, hist := [.reset, .tx 0xFE] } := rfl

/-- TX2. -/
theorem test_txb_sends : exec (.txb 0xFF) (atPos (.txb 0xFF) 0) = .next { base with hist := [.reset, .tx 0xFF] } := rfl

/-- TX4: TXB holds while TX_READY is 0. -/
theorem test_txb_holds :
    exec (.txb 0x41) { atPos (.txb 0x41) 0 with txReady := false } =
      .next { atPos (.txb 0x41) 0 with txReady := false } := rfl

/-- SM1: 01, then FE. -/
theorem test_txsm_sends_01 : exec .txsm (atPos .txsm 0) = .next { atPos .txsm 1 with hist := [.reset, .tx 0x01] } := rfl
theorem test_txsm_sends_fe : exec .txsm (atPos .txsm 1) = .next { base with hist := [.reset, .tx 0xFE] } := rfl

/-- EM1: FE, then 01. -/
theorem test_txem_sends_fe : exec .txem (atPos .txem 0) = .next { atPos .txem 1 with hist := [.reset, .tx 0xFE] } := rfl
theorem test_txem_sends_01 : exec .txem (atPos .txem 1) = .next { base with hist := [.reset, .tx 0x01] } := rfl

/-- W2: the frame counter wraps at the end of a drain, and READY is cleared in the same step. -/
theorem test_drd_counts_and_wraps :
    exec .drd { atPos .drd 14 with ready := true, frameCount := 0xFFFFFFFF } =
      .next { base with ready := false, frameCount := 0, hist := [.reset, .frameDone 0] } := rfl

/-- M4: a pending edge is discarded at the end of the drain and counted as missed. -/
theorem test_drd_discards_a_pending_edge :
    exec .drd { s0 1 32 true with cmd := some .drd, upc := 13, ready := true, fvPending := true } =
      .next { s0 1 32 true with
        cmd := some .drd, upc := 14, ready := true, missedCount := 1, hist := [.reset, .ackFv true] } := rfl

/-- DS3: DRS holds at `upc` 6 while TX_READY is 0; STATUS 0x0045, READY stays 1. -/
theorem test_drs_holds :
    exec .drs { atPos .drs 6 with txReady := false, ready := true } =
        .next { atPos .drs 6 with txReady := false, ready := true } ∧
      { atPos .drs 6 with txReady := false, ready := true }.status = 0x0045 := ⟨rfl, by decide⟩

/-- W3: a two-bit frame counter wraps from 3 to 0. -/
theorem test_drs_counts_and_wraps :
    exec .drs { s0 1 2 false with cmd := some .drs, upc := 19, ready := true, frameCount := 3 } =
      .next { s0 1 2 false with hist := [.reset, .frameDone 0] } := rfl

/-- The index map of 95_test_vectors.md 2.3 for N = 4. -/
theorem test_index_map :
    (mu 4 .drd)[26]? = some .pix ∧ (mu 4 .drd)[34]? = some .ackFv ∧ (mu 4 .drd)[35]? = some .clrRdy ∧
      (mu 4 .drs)[30]? = some (.tx .hi) ∧ (mu 4 .drs)[40]? = some (.tx (.imm 0xFE)) ∧
      (mu 4 .drs)[41]? = some (.tx (.imm 0x01)) ∧ (mu 4 .drs)[42]? = some .ackFv ∧
      (mu 4 .drs)[43]? = some .clrRdy := by decide

/-- F1: an illegal word; STATUS 0x0058. -/
theorem test_illegal_word :
    step (presented 0x0000) =
        .next { base with err := .illegalCmd, hist := [.reset, .accept 0x0000, .fault .illegalCmd] } ∧
      { base with err := .illegalCmd }.status = 0x0058 := ⟨rfl, by decide⟩

/-- F2: a drain while READY is 0; STATUS 0x0068. -/
theorem test_drain_without_ready :
    step (presented 0x2100) =
        .next { base with err := .drainNotReady, hist := [.reset, .accept 0x2100, .fault .drainNotReady] } ∧
      { base with err := .drainNotReady }.status = 0x0068 := ⟨rfl, by decide⟩

/-- F4: 0x2101 while READY is 0 is an illegal word first. -/
theorem test_illegal_word_comes_first :
    step (presented 0x2101) =
      .next { base with err := .illegalCmd, hist := [.reset, .accept 0x2101, .fault .illegalCmd] } := rfl

/-- I1, I2: an edge, then the interrupt step. -/
theorem test_edge_then_interrupt :
    take .fvEdge base = .next { base with fvPending := true, hist := [.reset, .fvEdge] } ∧
      take .interrupt { base with fvPending := true } = .next { base with ready := true, hist := [.reset, .isr false] } ∧
      { base with fvPending := true }.status = 0x004A ∧ { base with ready := true }.status = 0x0049 :=
  ⟨rfl, rfl, by decide, by decide⟩

/-- M1, M3: a merged edge and an edge that finds READY set are counted as missed. -/
theorem test_missed_frames :
    take .fvEdge { s0 1 32 true with fvPending := true } =
        .next { s0 1 32 true with fvPending := true, missedCount := 1, hist := [.reset, .fvEdge] } ∧
      take .interrupt { s0 1 32 true with fvPending := true, ready := true, missedCount := 1 } =
        .next { s0 1 32 true with ready := true, missedCount := 2, hist := [.reset, .isr true] } := ⟨rfl, rfl⟩

/-- R89 (d) and program P1: the wire bytes of a composed frame. -/
theorem test_envelope : envelope [0xCA, 0xFE, 0x01, 0x02] = [0x01, 0xFE, 0xCA, 0xFE, 0x01, 0x02, 0xFE, 0x01] := by decide

/-! ### The assembler (R88) -/

theorem test_asm_hex : Asm.assembleLine ['t', 'x', 'b', ' ', '0', 'x', '4', '1', ' ', ';', 'A'] = .ok (some 0x1041) := rfl
theorem test_asm_decimal : Asm.assembleLine ['T', 'X', 'B', ' ', '2', '5', '5'] = .ok (some 0x10FF) := rfl
theorem test_asm_out_of_range : Asm.assembleLine ['T', 'X', 'B', ' ', '2', '5', '6'] = .error .operandOutOfRange := rfl
theorem test_asm_operand_missing : Asm.assembleLine ['T', 'X', 'B'] = .error .missingOperand := rfl
theorem test_asm_operand_too_many : Asm.assembleLine ['R', 'D', 'B', ' ', '1'] = .error .unexpectedOperand := rfl

/-! ### Witnesses: for each statement with hypotheses, states that meet them -/

/-- A command at a position of its micro-program, for the statements of single block steps. -/
theorem witness_at (c : Instr) (k : Nat) : (atPos c k).At c k := ⟨rfl, rfl, rfl⟩

theorem witness_can_accept : base.CanAccept := ⟨rfl, rfl⟩

theorem witness_DecodeInvertsEncode : (Instr.txb 0xFF).wellFormed = true ∧ Instr.drs.wellFormed = true := by decide

theorem witness_EncodeInvertsDecode : decode 0x10FF = some (.txb 0xFF) ∧ decode 0x2100 = some .drs := by decide

theorem witness_StepRunsTheDecodedCommand :
    (presented 0x1000).err = .none ∧ (presented 0x1000).agenda = .block :: [] ∧ (presented 0x1000).cmd = none ∧
      (presented 0x1000).cmdPort = some 0x1000 ∧ decode 0x1000 = some (.txb 0x00) ∧
      (presented 0x0500).cmdPort = some 0x0500 ∧ decode 0x0500 = none ∧
      { atPos .rdb 2 with agenda := [.block] }.cmd = some .rdb := by decide

theorem witness_PlacedWordIsExecutedNext :
    decode (BitVec.ofNat 16 0x2100) = some .drs ∧ (0x2100 : Nat) < 2 ^ 16 := by decide

theorem witness_AcceptanceStartsTheCommand :
    base.CanAccept ∧ (Instr.rdb = .drd ∨ Instr.rdb = .drs → base.ready = true) ∧
      { base with ready := true }.CanAccept ∧
      (Instr.drd = .drd ∨ Instr.drd = .drs → { base with ready := true }.ready = true) :=
  ⟨⟨rfl, rfl⟩, by decide, ⟨rfl, rfl⟩, fun _ => rfl⟩

theorem witness_DrainWithoutReadyFaults : base.CanAccept ∧ base.ready = false := ⟨⟨rfl, rfl⟩, rfl⟩

theorem witness_BusyBlockTakesNoCommand :
    (atPos .rdb 1).cmd = some .rdb ∧ Instr.rdb ≠ .drd ∧
      step { presented 0x0100 with cmd := some .rpr, upc := 0 } =
        .next { base with
          cmdPort := some 0x0100, cmd := some .rpr, upc := 1, rrst := true, hist := [.reset, .rrst true] } :=
  ⟨rfl, by decide, rfl⟩

/-- A `TX` with TX_READY at 1 and at 0, a micro-operation that is the last one, and one that is not. -/
theorem witness_BlockStepPerformsAndAdvances :
    (mu (atPos .txem 1).params.pixelCount .txem)[(atPos .txem 1).upc]? = some (.tx (.imm 0x01)) ∧
      (atPos .txem 1).txReady = true ∧
      (atPos .txem 1).upc + 1 = muLength (atPos .txem 1).params.pixelCount .txem ∧
      (atPos .txem 0).upc + 1 ≠ muLength (atPos .txem 0).params.pixelCount .txem ∧
      (mu (atPos .rpr 5).params.pixelCount .rpr)[(atPos .rpr 5).upc]? = some (.rclk true) ∧
      (∀ src, MicroOp.rclk true ≠ .tx src) ∧
      { atPos .txem 1 with txReady := false }.txReady = false ∧ { base with err := .illegalCmd }.err ≠ .none ∧
      base.cmd = none ∧ base.cmdPort = none := by
  refine ⟨rfl, rfl, rfl, ?_, rfl, ?_, rfl, ?_, rfl, rfl⟩
  · decide
  · intro src h; cases h
  · decide

theorem witness_MicroOperationsHaveTheirEffects :
    { base with bus := [0x00] }.bus = 0x00 :: [] ∧ { base with hi := some 0xFF, lo := some 0x00 }.hi = some 0xFF ∧
      { base with hi := some 0xFF, lo := some 0x00 }.lo = some 0x00 ∧ base.bus = [] := ⟨rfl, rfl, rfl, rfl⟩

/-- The first and the last micro-operation of the last pixel of a frame of two. -/
theorem witness_DrainIndexMap :
    (mu 2 .drd)[6 + 7 * 1 + 6]? = some .pix ∧ (mu 2 .drs)[8 + 8 * 1 + 0]? = some (.rclk false) ∧
      (mu 2 .drs)[8 + 8 * 1 + 7]? = some (.tx .lo) ∧ (1 : Nat) < 2 := by decide

theorem witness_BytesAreWrittenBeforeRead :
    (mu 1 .pxs)[6]? = some (.tx .hi) ∧ (mu 1 .pxs)[7]? = some (.tx .lo) ∧ (mu 1 .pxd)[6]? = some .pix ∧
      (mu 1 .drd)[12]? = some .pix := by decide

theorem witness_RdbSteps :
    (atPos .rdb 0).At .rdb 0 ∧ (atPos .rdb 1).At .rdb 1 ∧ (atPos .rdb 1).bus = [] ∧
      { atPos .rdb 1 with bus := [0xA5] }.bus = 0xA5 :: [] ∧ (atPos .rdb 2).At .rdb 2 :=
  ⟨witness_at .rdb 0, witness_at .rdb 1, rfl, rfl, witness_at .rdb 2⟩

theorem witness_RprSteps :
    (atPos .rpr 0).At .rpr 0 ∧ (atPos .rpr 1).At .rpr 1 ∧ (atPos .rpr 2).At .rpr 2 ∧ (atPos .rpr 3).At .rpr 3 ∧
      (atPos .rpr 4).At .rpr 4 ∧ (atPos .rpr 5).At .rpr 5 :=
  ⟨witness_at .rpr 0, witness_at .rpr 1, witness_at .rpr 2, witness_at .rpr 3, witness_at .rpr 4, witness_at .rpr 5⟩

theorem witness_PxdSteps :
    (atPos .pxd 0).At .pxd 0 ∧ (atPos .pxd 1).At .pxd (0 + 1) ∧ (atPos .pxd 2).At .pxd (0 + 2) ∧
      (atPos .pxd 3).At .pxd (0 + 3) ∧ (atPos .pxd 4).At .pxd (0 + 4) ∧ (atPos .pxd 5).At .pxd (0 + 5) ∧
      (atPos .pxd 6).At .pxd 6 :=
  ⟨witness_at .pxd 0, witness_at .pxd 1, witness_at .pxd 2, witness_at .pxd 3, witness_at .pxd 4, witness_at .pxd 5,
    witness_at .pxd 6⟩

theorem witness_PxsSteps :
    (atPos .pxs 0).At .pxs 0 ∧ (atPos .pxs 1).At .pxs (0 + 1) ∧ (atPos .pxs 2).At .pxs (0 + 2) ∧
      (atPos .pxs 3).At .pxs (0 + 3) ∧ (atPos .pxs 4).At .pxs (0 + 4) ∧ (atPos .pxs 5).At .pxs (0 + 5) ∧
      (atPos .pxs 6).At .pxs 6 ∧ (atPos .pxs 7).At .pxs 7 ∧ (atPos .pxs 7).txReady = true :=
  ⟨witness_at .pxs 0, witness_at .pxs 1, witness_at .pxs 2, witness_at .pxs 3, witness_at .pxs 4, witness_at .pxs 5,
    witness_at .pxs 6, witness_at .pxs 7, rfl⟩

theorem witness_TxbTransmits : (atPos (.txb 0xFE) 0).At (.txb 0xFE) 0 ∧ (atPos (.txb 0xFE) 0).txReady = true :=
  ⟨witness_at _ 0, rfl⟩

theorem witness_MarkersTransmit :
    base.txReady = true ∧ (atPos .txsm 0).At .txsm 0 ∧ (atPos .txsm 1).At .txsm 1 ∧ (atPos .txem 0).At .txem 0 ∧
      (atPos .txem 1).At .txem 1 :=
  ⟨rfl, witness_at .txsm 0, witness_at .txsm 1, witness_at .txem 0, witness_at .txem 1⟩

/-- The rewind, the first and the last micro-operation of the one pixel, and the two that end the drain, for N = 1. -/
theorem witness_DrdSteps :
    (atPos .drd 0).At .drd 0 ∧ (atPos .drd 5).At .drd 5 ∧ 0 < (atPos .drd 6).params.pixelCount ∧
      (atPos .drd 6).At .drd (6 + 7 * 0) ∧ (atPos .drd 12).At .drd (6 + 7 * 0 + 6) ∧
      (atPos .drd 13).At .drd (7 * (atPos .drd 13).params.pixelCount + 6) ∧
      (atPos .drd 14).At .drd (7 * (atPos .drd 14).params.pixelCount + 7) :=
  ⟨witness_at .drd 0, witness_at .drd 5, by decide, witness_at .drd 6, witness_at .drd 12, witness_at .drd 13,
    witness_at .drd 14⟩

/-- The rewind, both markers, the pixel's first and last micro-operation, and the two that end the drain, for N = 1. -/
theorem witness_DrsSteps :
    (atPos .drs 0).At .drs 0 ∧ (atPos .drs 5).At .drs 5 ∧ (atPos .drs 6).txReady = true ∧
      (atPos .drs 6).At .drs 6 ∧ (atPos .drs 7).At .drs 7 ∧ 0 < (atPos .drs 8).params.pixelCount ∧
      (atPos .drs 8).At .drs (8 + 8 * 0) ∧ (atPos .drs 14).At .drs (8 + 8 * 0 + 6) ∧
      (atPos .drs 15).At .drs (8 + 8 * 0 + 7) ∧
      (atPos .drs 16).At .drs (8 * (atPos .drs 16).params.pixelCount + 8) ∧
      (atPos .drs 17).At .drs (8 * (atPos .drs 17).params.pixelCount + 9) ∧
      (atPos .drs 18).At .drs (8 * (atPos .drs 18).params.pixelCount + 10) ∧
      (atPos .drs 19).At .drs (8 * (atPos .drs 19).params.pixelCount + 11) :=
  ⟨witness_at .drs 0, witness_at .drs 5, rfl, witness_at .drs 6, witness_at .drs 7, by decide, witness_at .drs 8,
    witness_at .drs 14, witness_at .drs 15, witness_at .drs 16, witness_at .drs 17, witness_at .drs 18,
    witness_at .drs 19⟩

/-- An idle state with word `w` on CMD, bytes on the bus, and `k` turns of the block to come. -/
def ready (w : Word) (bus : List Byte) (k : Nat) : State :=
  { base with cmdPort := some w, bus := bus, ready := true, agenda := List.replicate k .block }

/-- What the statements about whole commands ask of such a state. -/
theorem witness_ready (w : Word) (bus : List Byte) (k : Nat) :
    (ready w bus k).CanAccept ∧ (ready w bus k).cmdPort = some w ∧ (ready w bus k).bus = bus ∧
      (ready w bus k).ready = true ∧ (ready w bus k).txReady = true ∧
      (ready w bus k).agenda = List.replicate k .block ++ [] :=
  ⟨⟨rfl, rfl⟩, rfl, rfl, rfl, rfl, by simp [ready]⟩

theorem witness_ShortCommandsRunToRetirement :
    (ready 0x0100 [0xA5] 4).CanAccept ∧ (ready 0x0100 [0xA5] 4).bus = 0xA5 :: [] ∧
      (ready 0x0200 [] 7).cmdPort = some 0x0200 ∧ (ready 0x0300 [0x12, 0x34] 8).bus = 0x12 :: 0x34 :: [] ∧
      (ready 0x105A [] 2).cmdPort = some ((0x10 : Byte) ++ (0x5A : Byte)) ∧ (ready 0x105A [] 2).txReady = true ∧
      (ready 0x1100 [] 3).cmdPort = some 0x1100 ∧ (ready 0x1200 [] 3).cmdPort = some 0x1200 :=
  ⟨⟨rfl, rfl⟩, rfl, rfl, rfl, rfl, rfl, rfl, rfl⟩

theorem witness_PxsRunsToRetirement :
    (ready 0x0400 [0x01, 0xFE] 9).CanAccept ∧ (ready 0x0400 [0x01, 0xFE] 9).cmdPort = some 0x0400 ∧
      (ready 0x0400 [0x01, 0xFE] 9).bus = 0x01 :: 0xFE :: [] ∧ (ready 0x0400 [0x01, 0xFE] 9).txReady = true ∧
      (ready 0x0400 [0x01, 0xFE] 9).agenda = List.replicate 9 .block ++ [] :=
  ⟨⟨rfl, rfl⟩, rfl, rfl, rfl, rfl⟩

/-- DD1: N = 1. -/
theorem witness_DrdRunsToRetirement :
    (ready 0x2000 [0xAB, 0xCD] 16).CanAccept ∧ (ready 0x2000 [0xAB, 0xCD] 16).ready = true ∧
      ([] : List Byte).length + 2 = 2 * (ready 0x2000 [0xAB, 0xCD] 16).params.pixelCount ∧
      (ready 0x2000 [0xAB, 0xCD] 16).bus = [] ++ [0xAB, 0xCD] ++ [] ∧
      (ready 0x2000 [0xAB, 0xCD] 16).agenda =
        List.replicate (7 * (ready 0x2000 [0xAB, 0xCD] 16).params.pixelCount + 9) .block ++ [] :=
  ⟨⟨rfl, rfl⟩, rfl, rfl, rfl, rfl⟩

/-- DS1: N = 1. -/
theorem witness_DrsRunsToRetirement :
    (ready 0x2100 [0x01, 0xFE] 21).CanAccept ∧ (ready 0x2100 [0x01, 0xFE] 21).txReady = true ∧
      ([] : List Byte).length + 2 = 2 * (ready 0x2100 [0x01, 0xFE] 21).params.pixelCount ∧
      (ready 0x2100 [0x01, 0xFE] 21).bus = [] ++ [0x01, 0xFE] ++ [] ∧
      (ready 0x2100 [0x01, 0xFE] 21).agenda =
        List.replicate (8 * (ready 0x2100 [0x01, 0xFE] 21).params.pixelCount + 13) .block ++ [] :=
  ⟨⟨rfl, rfl⟩, rfl, rfl, rfl, rfl⟩

/-- The run in which the block takes every turn. -/
def blockRun (s : State) : Nat → State
  | 0 => s
  | k + 1 =>
    match blockMove (blockRun s k) with
    | .next t => t
    | .fault _ => blockRun s k
    | .refused _ => blockRun s k

/-- A sensor that holds AB CD in its frame all along, on a bus that always meets its timing. -/
def sensor : Sensor where
  frame _ k := if k = 0 then 0xAB else 0xCD
  stable _ := True

/-- The sample of step `k`, if it takes one after a rewind, is the sensor's byte. -/
def sampledInOrder (r : Nat → State) (k : Nat) : Bool :=
  match (r (k + 1)).hist.getLast?, rewindOf (r k).hist with
  | some (.sample v), .inOrder _ j => v == sensor.frame k j
  | _, _ => true

/-- A run of the block's turns that reaches, in `n` steps, a state with nothing more to do, meets the sensor's premises. -/
theorem witness_sensor (s : State) (n : Nat) (hend : blockMove (blockRun s n) = .next (blockRun s n))
    (hnext : ∀ k, k < n → blockMove (blockRun s k) = .next (blockRun s (k + 1)))
    (hin : ∀ k, k < n → sampledInOrder (blockRun s) k = true) :
    IsRun (fun _ => .block) (blockRun s) ∧ NoReset (fun _ => .block) ∧ SensorInOrder sensor (blockRun s) ∧
      BusStability sensor ∧ NoOverwriteDuringDrain sensor (blockRun s) := by
  have stays : ∀ j, blockRun s (n + j) = blockRun s n := by
    intro j
    induction j with
    | zero => rfl
    | succ j ih =>
      show (match blockMove (blockRun s (n + j)) with
        | .next t => t | .fault _ => blockRun s (n + j) | .refused _ => blockRun s (n + j)) = blockRun s n
      rw [ih, hend]
  have later : ∀ k, n ≤ k → blockRun s k = blockRun s n := by
    intro k hk
    obtain ⟨j, rfl⟩ := Nat.exists_eq_add_of_le hk
    exact stays j
  refine ⟨fun k => ?_, fun _ => nofun, fun k clock j v _ hr _ hh => ?_, fun _ => trivial, fun _ _ _ => rfl⟩
  · by_cases hk : k < n
    · exact hnext k hk
    · show blockMove (blockRun s k) = .next (blockRun s (k + 1))
      rw [later k (by omega), later (k + 1) (by omega), hend]
  · by_cases hk : k < n
    · have h := hin k hk
      unfold sampledInOrder at h
      rw [hh, List.getLast?_append, hr] at h
      simpa using h
    · rw [later k (by omega), later (k + 1) (by omega)] at hh
      simpa using congrArg List.length hh

/-- DD1: a DRD with N = 1, accepted by step 0 and retired by step 15. -/
theorem witness_DrainsDeliverTheSensorsFrame_drd :
    IsRun (fun _ => .block) (blockRun (ready 0x2000 [0xAB, 0xCD] 0)) ∧
      SensorInOrder sensor (blockRun (ready 0x2000 [0xAB, 0xCD] 0)) ∧
      NoOverwriteDuringDrain sensor (blockRun (ready 0x2000 [0xAB, 0xCD] 0)) ∧ BusStability sensor ∧
      AcceptedAt .drd (fun _ => .block) (blockRun (ready 0x2000 [0xAB, 0xCD] 0)) 0 ∧
      RetiredBy .drd (blockRun (ready 0x2000 [0xAB, 0xCD] 0)) 0 15 ∧
      (blockRun (ready 0x2000 [0xAB, 0xCD] 0) 2).upc = 1 ∧
      blockTurns (fun _ => .block) 0 (16 - 0) = muLength 1 .drd + 1 := by
  obtain ⟨h1, _, h2, h3, h4⟩ := witness_sensor (ready 0x2000 [0xAB, 0xCD] 0) 16 rfl
    (by intro k hk; interval_cases k <;> rfl) (by decide)
  refine ⟨h1, h2, h4, h3, ⟨rfl, ⟨rfl, rfl⟩, rfl, fun _ => rfl⟩, ⟨fun k hk hk' => ?_, rfl⟩, rfl, by decide⟩
  interval_cases k <;> rfl

/-- A DRS with N = 1, accepted by step 0 and retired by step 20, TX_READY 1 all along. -/
theorem witness_DrainsDeliverTheSensorsFrame_drs :
    IsRun (fun _ => .block) (blockRun (ready 0x2100 [0xAB, 0xCD] 0)) ∧
      SensorInOrder sensor (blockRun (ready 0x2100 [0xAB, 0xCD] 0)) ∧
      NoOverwriteDuringDrain sensor (blockRun (ready 0x2100 [0xAB, 0xCD] 0)) ∧ BusStability sensor ∧
      AcceptedAt .drs (fun _ => .block) (blockRun (ready 0x2100 [0xAB, 0xCD] 0)) 0 ∧
      RetiredBy .drs (blockRun (ready 0x2100 [0xAB, 0xCD] 0)) 0 20 ∧
      (blockRun (ready 0x2100 [0xAB, 0xCD] 0) 2).upc = 1 ∧
      (∀ k, 0 ≤ k → k < 21 → (blockRun (ready 0x2100 [0xAB, 0xCD] 0) k).txReady = true) ∧
      blockTurns (fun _ => .block) 0 (21 - 0) = muLength 1 .drs + 1 := by
  obtain ⟨h1, _, h2, h3, h4⟩ := witness_sensor (ready 0x2100 [0xAB, 0xCD] 0) 21 rfl
    (by intro k hk; interval_cases k <;> rfl) (by decide)
  refine ⟨h1, h2, h4, h3, ⟨rfl, ⟨rfl, rfl⟩, rfl, fun _ => rfl⟩, ⟨fun k hk hk' => ?_, rfl⟩, rfl, fun k _ hk => ?_,
    by decide⟩
  · interval_cases k <;> rfl
  · interval_cases k <;> rfl

/-- R61: after RPR, RDB, RPR the next sample is the first byte again, and a reset at idle moves nothing; U22: a reset in the
low phase of a read leaves the pointer unknown. -/
theorem test_rewind_begins_afresh :
    rewindOf (rewindEvents ++ [.rclk false, .sample 0xAB, .rclk true] ++ rewindEvents) = .inOrder true 0 ∧
      rewindOf (rewindEvents ++ [.rclk false, .sample 0xAB]) = .inOrder false 1 ∧
      rewindOf (rewindEvents ++ [.reset]) = .inOrder true 0 ∧
      rewindOf (rewindEvents ++ [.rclk false, .sample 0xAB, .reset]) = .unknown ∧
      rewindOf [.rrst true, .rclk false, .reset, .rclk true] = .unknown ∧ rewindOf [.rclk false, .sample 0xAB] = .unknown := by decide

theorem witness_ReaderCommandsFrame :
    exec .rdb (atPos .rdb 2) = .next { base with hist := [.reset, .rclk true] } ∧
      exec .rpr (atPos .rpr 4) = .next { atPos .rpr 5 with hist := [.reset, .rrst false] } := ⟨rfl, rfl⟩

theorem witness_PixelCommandsFrame :
    exec .pxd (atPos .pxd 0) = .next { atPos .pxd 1 with rclk := false, hist := [.reset, .rclk false] } ∧
      exec .pxs (atPos .pxs 2) = .next { atPos .pxs 3 with hist := [.reset, .rclk true] } := ⟨rfl, rfl⟩

theorem witness_FramerCommandsFrame :
    exec (.txb 0x00) (atPos (.txb 0x00) 0) = .next { base with hist := [.reset, .tx 0x00] } ∧
      exec .txsm base = .next (atPos .txsm 0) ∧ exec .txem base = .next (atPos .txem 0) := ⟨rfl, rfl, rfl⟩

theorem witness_DrainsFrame :
    exec .drd { atPos .drd 6 with ready := true } =
        .next { atPos .drd 7 with ready := true, rclk := false, hist := [.reset, .rclk false] } ∧
      exec .drs { atPos .drs 6 with ready := true } =
        .next { atPos .drs 7 with ready := true, hist := [.reset, .tx 0x01] } ∧
      ¬(atPos .drd 6).CanAccept ∧
      ¬(atPos .drd 6).At .drd (muLength (atPos .drd 6).params.pixelCount .drd - 2) ∧
      ¬(atPos .drd 6).At .drd (muLength (atPos .drd 6).params.pixelCount .drd - 1) := by
  refine ⟨rfl, rfl, ?_, ?_, ?_⟩
  · rintro ⟨_, h⟩; cases h
  · rintro ⟨_, _, h⟩; revert h; decide
  · rintro ⟨_, _, h⟩; revert h; decide

theorem witness_InterruptStepIsTheRules : { base with fvPending := true }.fvPending = true ∧ base.fvPending = false :=
  ⟨rfl, rfl⟩

theorem witness_HostStepsAreTheRules : base.cmdPort = none ∧ (presented 0xFFFF).cmdPort = some 0xFFFF := ⟨rfl, rfl⟩

theorem witness_ResetStepIsTheRules : { base with hist := [] }.hist = [] := rfl

theorem witness_StatusHasItsFields :
    base.err = .none ∧ { base with err := .illegalCmd }.err = .illegalCmd ∧
      { base with err := .drainNotReady }.err = .drainNotReady := ⟨rfl, rfl, rfl⟩

/-- RRST asserted and not, with either active level; an edge of either polarity. -/
theorem witness_PortsShowTheRegisters_lines :
    { base with rrst := true }.rrst = true ∧ base.rrst = false ∧
      { base with rrst := true, params := { base.params with rrstActiveLevel := .low } }.rrstPin = .low ∧
      { base with params := { base.params with rrstActiveLevel := .low } }.rrstPin = .high ∧
      isFrameValidEdge { base.params with fvActiveEdge := .falling } true false = true ∧
      isFrameValidEdge { base.params with fvActiveEdge := .rising } true false = false := ⟨rfl, rfl, rfl, rfl, rfl, rfl⟩

theorem witness_PortsShowTheRegisters :
    { base with latch := some 0xFF }.latch = some 0xFF ∧ { base with pix16 := some 0xFFFF }.pix16 = some 0xFFFF ∧
      { s0 1 2 true with frameCount := 3, missedCount := 3 }.CountersFit ∧
      (s0 1 2 true).params.missedFrameCounter = true ∧ base.params.missedFrameCounter = false := by
  refine ⟨rfl, rfl, ?_, rfl, rfl⟩
  unfold State.CountersFit
  decide

/-- The interrupt step sets READY; CLRRDY and reset clear it. -/
theorem witness_OnlyInterruptSetsReady :
    step { about .interrupt with fvPending := true } = .next { base with ready := true, hist := [.reset, .isr false] } ∧
      step { atPos .drd 14 with ready := true, agenda := [.block] } =
        .next { base with frameCount := 1, hist := [.reset, .frameDone 1] } ∧
      step { about .reset with ready := true } = .next { base with hist := [.reset, .reset] } := ⟨rfl, rfl, rfl⟩

theorem witness_OnlyDrainEndCountsFrames :
    step { atPos .drs 19 with agenda := [.block] } = .next { base with frameCount := 1, hist := [.reset, .frameDone 1] } ∧
      step { about .reset with frameCount := 7 } = .next { base with hist := [.reset, .reset] } := ⟨rfl, rfl⟩

/-- The three cases, and reset. -/
theorem witness_MissedFramesAreCountedInThreeCases :
    step { s0 1 2 true with fvPending := true, agenda := [.fvEdge] } =
        .next { s0 1 2 true with fvPending := true, missedCount := 1, hist := [.reset, .fvEdge] } ∧
      step { s0 1 2 true with fvPending := true, ready := true, missedCount := 3, agenda := [.interrupt] } =
        .next { s0 1 2 true with ready := true, missedCount := 0, hist := [.reset, .isr true] } ∧
      step { s0 1 2 true with cmd := some .drd, upc := 13, fvPending := true, agenda := [.block] } =
        .next { s0 1 2 true with cmd := some .drd, upc := 14, missedCount := 1, hist := [.reset, .ackFv true] } ∧
      step { s0 1 2 true with missedCount := 3, agenda := [.reset] } =
        .next { s0 1 2 true with hist := [.reset, .reset] } ∧
      { s0 1 2 true with fvPending := true, agenda := [.fvEdge] }.MissesFrame ∧
      { s0 1 2 true with fvPending := true, ready := true, missedCount := 3, agenda := [.interrupt] }.MissesFrame ∧
      { s0 1 2 true with cmd := some .drd, upc := 13, fvPending := true, agenda := [.block] }.MissesFrame :=
  ⟨rfl, rfl, rfl, rfl, .inl ⟨rfl, rfl⟩, .inr (.inl ⟨rfl, rfl, rfl⟩), .inr (.inr ⟨rfl, rfl, rfl, .drd, rfl, rfl⟩)⟩

theorem witness_OnlyTheBlockTouchesTheBus :
    step (about .fvEdge) = .next { base with fvPending := true, hist := [.reset, .fvEdge] } ∧
      (about .fvEdge).nextMove ≠ .block ∧ (about .fvEdge).nextMove ≠ .reset := ⟨rfl, by decide, by decide⟩

/-- A command that goes on and one that retires. -/
theorem witness_OnlyResetCutsACommandShort :
    step { atPos .rdb 0 with agenda := [.block] } =
        .next { atPos .rdb 1 with rclk := false, hist := [.reset, .rclk false] } ∧
      step { atPos .rdb 2 with agenda := [.block] } = .next { base with hist := [.reset, .rclk true] } ∧
      { atPos .rdb 2 with agenda := [.block] }.nextMove ≠ .reset := ⟨rfl, rfl, by decide⟩

theorem witness_FaultsAreSticky :
    { about .fvEdge with err := .illegalCmd }.err ≠ .none ∧
      step { about .fvEdge with err := .illegalCmd } =
        .next { base with err := .illegalCmd, fvPending := true, hist := [.reset, .fvEdge] } ∧
      { about .fvEdge with err := .illegalCmd }.nextMove ≠ .reset := ⟨by decide, rfl, by decide⟩

/-- Both faults. -/
theorem witness_FaultsAreRaisedByAcceptanceOnly :
    step (presented 0x0500) =
        .next { base with err := .illegalCmd, hist := [.reset, .accept 0x0500, .fault .illegalCmd] } ∧
      step (presented 0x2000) =
        .next { base with err := .drainNotReady, hist := [.reset, .accept 0x2000, .fault .drainNotReady] } ∧
      (presented 0x0500).nextMove ≠ .reset := ⟨rfl, rfl, by decide⟩

/-- DS3's stall, an edge, its interrupt step and two turns of the block to come. -/
theorem witness_StalledBlockHangs :
    { atPos .drs 6 with txReady := false, ready := true, agenda := [.fvEdge, .interrupt, .block, .block] }.Stalled ∧
      { atPos .drs 6 with txReady := false, ready := true, agenda := [.fvEdge, .interrupt, .block, .block] }.agenda =
        [.fvEdge, .interrupt, .block, .block] ++ [] ∧
      Config.Move.reset ∉ [.fvEdge, .interrupt, .block, .block] ∧
      Config.Move.setTxReady true ∉ [.fvEdge, .interrupt, .block, .block] :=
  ⟨⟨rfl, rfl, .drs, .imm 0x01, rfl, rfl⟩, rfl, by decide, by decide⟩

theorem witness_HistoryOnlyGrows : step (about .reset) = .next { base with hist := [.reset, .reset] } := rfl

/-- Idle, and the last position of a drain. -/
theorem witness_LegalPositionNeverStops : base.Positioned ∧ (atPos .drs 19).Positioned := by
  constructor
  · rfl
  · show (19 : Nat) < 8 * 1 + 12
    decide

/-- A DRD with its last two micro-operations to come, READY = 1, under the moves `ms`. -/
def draining (ms : List Config.Move) : State := { atPos .drd 13 with ready := true, agenda := ms }

/-- The four orders of the edge, the interrupt step and the last two micro-operations. -/
theorem witness_EdgeFatesAtTheEndOfADrain (ms : List Config.Move) :
    isDrain .drd = true ∧ (draining ms).At .drd (muLength (draining ms).params.pixelCount .drd - 2) ∧
      (draining ms).ready = true ∧ (draining ms).fvPending = false ∧ (draining ms).agenda = ms ∧
      (draining [.fvEdge, .interrupt, .block, .block]).agenda = [.fvEdge, .interrupt, .block, .block] ++ [] ∧
      (draining [.fvEdge, .block, .block, .interrupt]).agenda = [.fvEdge, .block, .block, .interrupt] ++ [] ∧
      (draining [.block, .fvEdge, .interrupt, .block]).agenda = [.block, .fvEdge, .interrupt, .block] ++ [] ∧
      (draining [.block, .fvEdge, .block, .interrupt]).agenda = [.block, .fvEdge, .block, .interrupt] ++ [] :=
  ⟨rfl, ⟨rfl, rfl, rfl⟩, rfl, rfl, rfl, rfl, rfl, rfl, rfl⟩

/-- The invariant in the middle of a drain, between the two samples of its pixel, and the step that takes the second. -/
theorem witness_StepKeepsTheInvariant :
    { atPos .drd 10 with rclk := false, hi := some 0xAB, bus := [0xCD], ready := true, agenda := [.block] }.Inv ∧
      step { atPos .drd 10 with rclk := false, hi := some 0xAB, bus := [0xCD], ready := true, agenda := [.block] } =
        .next { atPos .drd 11 with
          rclk := false, hi := some 0xAB, lo := some 0xCD, latch := some 0xCD, ready := true
          hist := [.reset, .sample 0xCD] } := by
  refine ⟨⟨rfl, ?_, fun h => absurd rfl h, rfl, ⟨fun _ => rfl, ?_⟩, ?_, fun _ _ _ => rfl⟩, rfl⟩
  · show (10 : Nat) < 7 * 1 + 8
    decide
  · intro h; revert h; decide
  · unfold State.CountersFit; decide

theorem witness_IdleLevelsHold :
    { atPos .rpr 2 with rclk := false, rrst := true, agenda := [.block] }.LinesDriven ∧
      step { atPos .rpr 2 with rclk := false, rrst := true, agenda := [.block] } =
        .next { atPos .rpr 3 with rclk := true, rrst := true, hist := [.reset, .rclk true] } ∧
      base.LinesDriven ∧ base.cmd = none := ⟨rfl, rfl, rfl, rfl⟩

theorem witness_HistoryRecordsTheState :
    { about .interrupt with fvPending := true, hist := [.reset, .fvEdge] }.Recorded ∧
      step { about .interrupt with fvPending := true, hist := [.reset, .fvEdge] } =
        .next { base with ready := true, hist := [.reset, .fvEdge, .isr false] } := ⟨rfl, rfl⟩

theorem witness_FrameCounterCountsDrains :
    { s0 1 2 false with cmd := some .drd, upc := 14, agenda := [.block], frameCount := 3,
                        hist := [.reset, .frameDone 1, .frameDone 2, .frameDone 3] }.CountsDrains ∧
      step { s0 1 2 false with cmd := some .drd, upc := 14, agenda := [.block], frameCount := 3,
                               hist := [.reset, .frameDone 1, .frameDone 2, .frameDone 3] } =
        .next { s0 1 2 false with
          hist := [.reset, .frameDone 1, .frameDone 2, .frameDone 3, .frameDone 0] } := ⟨rfl, rfl⟩

/-- DS1 just before its last step. -/
def drained : State :=
  { atPos .drs 19 with
    ready := true, agenda := [.block], latch := some 0xFE, hi := some 0x01, lo := some 0xFE
    hist := [.reset, .fvEdge, .isr false, .accept 0x2100] ++ rewindEvents ++ [.tx 0x01, .tx 0xFE] ++
      serialEvents [0x01, 0xFE] ++ [.tx 0xFE, .tx 0x01, .ackFv false] }

theorem witness_CommandsLeaveTheirTrace : drained.Traced where
  counted _ := rfl
  events _ := rfl
  hi _ _ h := h
  lo _ _ h := h

theorem witness_RetiredDrainsAreWholeFrames :
    drained.Traced ∧ drained.cmd = some .drs ∧
      step drained = .next { drained with
        agenda := [], ready := false, cmd := none, upc := 0, frameCount := 1
        hist := drained.hist ++ [.frameDone 1] } ∧
      drained.nextMove ≠ .reset :=
  ⟨witness_CommandsLeaveTheirTrace, rfl, rfl, by decide⟩

/-- What the statement asks of a state `s` under the moves `ms` and one turn of the block. -/
def CompletesUnder (c : Instr) (ms : List Config.Move) (s : State) : Prop :=
  s.err = .none ∧ s.cmd = some c ∧ s.upc < muLength s.params.pixelCount c ∧ s.agenda = ms ++ .block :: [] ∧
    Config.Move.reset ∉ ms ∧ ms.count .block + 1 = muLength s.params.pixelCount c - s.upc

/-- The last step of each of the four commands, and a drain's last two steps with an edge and its interrupt step between. -/
theorem witness_CommandsWithoutTransmitComplete :
    CompletesUnder .rdb [] { atPos .rdb 2 with agenda := [.block] } ∧
      CompletesUnder .rpr [] { atPos .rpr 5 with agenda := [.block] } ∧
      CompletesUnder .pxd [] { atPos .pxd 6 with agenda := [.block] } ∧
      CompletesUnder .drd [] { atPos .drd 14 with agenda := [.block] } ∧
      CompletesUnder .drd [.block, .fvEdge, .interrupt]
        { atPos .drd 13 with agenda := [.block, .fvEdge, .interrupt, .block] } ∧
      (atPos .rdb 2).Positioned := by
  unfold CompletesUnder
  refine ⟨by decide, by decide, by decide, by decide, by decide, ?_⟩
  show (2 : Nat) < 3
  decide

/-- TXB about to transmit, then idle for ever, under a schedule of the block's turns. -/
def shortRun : Nat → State
  | 0 => atPos (.txb 0x41) 0
  | _ + 1 => { base with hist := [.reset, .tx 0x41] }

theorem witness_FairRunsRetireCommands :
    IsRun (fun _ => .block) shortRun ∧ NoReset (fun _ => .block) ∧ FairToBlock (fun _ => .block) shortRun ∧
      TxEventuallyReady (fun _ => .block) shortRun ∧ (shortRun 0).err = .none ∧
      (shortRun 0).cmd = some (.txb 0x41) ∧ (shortRun 0).Positioned := by
  refine ⟨fun k => ?_, fun _ => nofun, fun k _ => ⟨k, Nat.le_refl k, rfl⟩,
    fun k _ => ⟨k, Nat.le_refl k, fun l _ _ => ?_⟩, rfl, rfl, ?_⟩
  · cases k <;> rfl
  · cases l <;> rfl
  · show (0 : Nat) < 1
    decide

/-- One pending edge, then its interrupt step, under a schedule of interrupt steps. -/
def interruptRun : Nat → State
  | 0 => { base with fvPending := true }
  | _ + 1 => { base with ready := true, hist := [.reset, .isr false] }

theorem witness_FiniteEdgesAreHandled :
    IsRun (fun _ => .interrupt) interruptRun ∧ FiniteEdges (fun _ => .interrupt) ∧
      FairToInterrupt (fun _ => .interrupt) interruptRun ∧ (interruptRun 0).fvPending = true := by
  refine ⟨fun k => ?_, ⟨0, fun _ _ => nofun⟩, fun k _ => ⟨k, Nat.le_refl k, rfl⟩, rfl⟩
  cases k <;> rfl

theorem witness_AssemblerWritesEveryCommand : ';' ∉ ['T', 'X', 'B', ' ', '0', 'x', '4', '1'] := by decide

/-- The last value in range and the first out of it, the last hexadecimal digit, and a mnemonic without operand. -/
theorem witness_AssemblerChecksOperands :
    Nat.toDigits 10 255 = ['2', '5', '5'] ∧ Nat.toDigits 10 256 = ['2', '5', '6'] ∧ Nat.digitChar 15 = 'f' ∧
      (15 : Nat) < 16 ∧ Asm.parseOperand ['2', '5', '5'] = .ok 0xFF ∧
      Asm.parseOperand ['2', '5', '6'] = .error .operandOutOfRange ∧ (∀ b, Instr.drs ≠ .txb b) := by
  refine ⟨by decide, by decide, by decide, by decide, rfl, rfl, ?_⟩
  intro b h
  cases h

end Sys2Proof.Machine.Tests
end

section
/-! SUPPORT. The proofs of the statements on the state: the micro-operations, the block step, READY and the missed-frame
counter (spec/10_state.md R25, R28, R30, R31). -/
namespace Sys2Proof.Machine

/-! ### The micro-operations (R30) -/

/-- Only a `TX` with TX_READY at 0 is not enabled (R30). -/
theorem MicroOp.enabled_iff (s : State) (m : MicroOp) :
    m.enabled s = true ↔ (s.txReady = true ∨ ∀ src, m ≠ .tx src) := by
  cases m <;> simp [MicroOp.enabled]

/-- Every micro-operation but CLRRDY leaves READY as it is (R25). -/
theorem MicroOp.perform_ready_of_ne {m : MicroOp} (h : m ≠ .clrRdy) (s : State) :
    (m.perform s).ready = s.ready := by
  cases m
  case clrRdy => exact absurd rfl h
  all_goals simp [MicroOp.perform]

/-- Every micro-operation but ACKFV leaves the missed-frame counter as it is (R28). -/
theorem MicroOp.perform_missedCount_of_ne {m : MicroOp} (h : m ≠ .ackFv) (s : State) :
    (m.perform s).missedCount = s.missedCount := by
  cases m
  case ackFv => exact absurd rfl h
  all_goals simp [MicroOp.perform]

/-- The counter after a lost frame, written as R28 writes it. -/
theorem State.countMissed_eq (b : Bool) (s : State) :
    s.countMissed b = { s with
      missedCount := if s.params.missedFrameCounter = true ∧ b = true then
          (s.missedCount + 1) % 2 ^ s.params.frameCountWidth
        else s.missedCount } := by
  cases b
  · simp
  · cases ho : s.params.missedFrameCounter
    · simp [State.countMissed_off, ho]
    · simp [State.countMissed_on, ho, bump]

/-- What a `SAMPLE` that sees byte `v` and leaves state `u` of the bus does, for each destination (R30). -/
theorem State.sampleBus_eq {s u : State} {v : Byte} (h : s.busSample = (v, u)) :
    s.sampleBus .none = { u with latch := some v, hist := u.hist ++ [.sample v] } ∧
      s.sampleBus .hi = { u with latch := some v, hi := some v, hist := u.hist ++ [.sample v] } ∧
      s.sampleBus .lo = { u with latch := some v, lo := some v, hist := u.hist ++ [.sample v] } := by
  simp [State.sampleBus, State.store, State.emit, h]

/-- A `PIX` of two registers that hold values (R30, R132). -/
theorem State.putPixel_some {s : State} {h l : Byte} (hh : s.hi = some h) (hl : s.lo = some l) :
    s.putPixel = { s with pix16 := some (h ++ l), hist := s.hist ++ [.pix (h ++ l)] } := by
  obtain ⟨v, d, heq, hv⟩ := s.putPixel_eq
  obtain ⟨rfl, rfl⟩ := hv h l hh hl
  exact heq

/-- A `TX` whose source gives byte `b` without a draw (R30). -/
theorem State.transmit_of_source {s : State} {src : Src} {b : Byte} (h : s.source src = (b, s)) :
    s.transmit src = { s with hist := s.hist ++ [.tx b] } := by
  simp [State.transmit, State.emit, h]

/-- What `ACKFV` does (R30, R28). -/
theorem State.ackFv_eq (s : State) :
    s.ackFv = { s with
      missedCount := if s.params.missedFrameCounter = true ∧ s.fvPending = true then
          (s.missedCount + 1) % 2 ^ s.params.frameCountWidth
        else s.missedCount
      hist := s.hist ++ [.ackFv s.fvPending], fvPending := false } := by
  rw [State.ackFv, State.countMissed_eq]; rfl

/-- Settles O11, from the effect of each micro-operation above; a drive and CLRRDY have theirs by definition. -/
theorem microOperationsHaveTheirEffects : Obligations.MicroOperationsHaveTheirEffects := fun s =>
  ⟨MicroOp.enabled_iff s, fun _ => rfl, fun _ => rfl,
    fun _ _ h => State.sampleBus_eq (State.busSample_cons h),
    fun h => ⟨_, State.sampleBus_eq (State.busSample_nil h)⟩,
    fun _ => State.transmit_of_source rfl,
    fun _ h => State.transmit_of_source (by simp [State.source, h]),
    fun _ h => State.transmit_of_source (by simp [State.source, h]),
    fun _ _ => State.putPixel_some, State.ackFv_eq s, rfl⟩

/-! ### The block's turn (R31) -/

/-- A faulted block, and an idle one with no word on CMD, has no enabled step (R86, R203). -/
theorem blockMove_disabled {s : State} (h : s.err ≠ .none ∨ (s.cmd = none ∧ s.cmdPort = none)) :
    blockMove s = .next s := by
  by_cases he : s.err = .none
  · obtain ⟨hc, hw⟩ := h.resolve_left (absurd he)
    simp [blockMove, he, hc, hw]
  · simp [blockMove, he]

/-- The turn of an unfaulted block with a command in progress is that command's (R31). -/
theorem blockMove_busy {c : Instr} {s : State} (he : s.err = .none) (hc : s.cmd = some c) :
    blockMove s = exec c s := by
  simp [blockMove, he, hc]

/-- At a micro-operation that is not enabled the block holds (R31). -/
theorem exec_hold {c : Instr} {s : State} {k : Nat} {m : MicroOp} (h : s.At c k)
    (hm : (mu s.params.pixelCount c)[k]? = some m) (hen : m.enabled s = false) : exec c s = .next s := by
  obtain ⟨he, hc, rfl⟩ := h
  rw [exec_busy he hc]
  simp [blockStep, hm, hen]

/-- Settles O10: `exec_at` and `exec_hold` give the block step, `advance_last` and `advance_more` the sequencer. -/
theorem blockStepPerformsAndAdvances : Obligations.BlockStepPerformsAndAdvances := by
  refine ⟨fun _ => blockMove_disabled, fun _ _ => blockMove_busy, fun c s m he hc hm => ⟨fun hen => ?_, ?_⟩⟩
  · have hx := exec_at ⟨he, hc, rfl⟩ hm ((MicroOp.enabled_iff s m).mpr hen)
    constructor
    · intro hlast
      rw [hx, State.advance_last (by simpa using hlast)]
    · intro hmore
      rw [hx, State.advance_more (by simpa using hmore), MicroOp.perform_upc]
  · rintro src rfl htx
    exact exec_hold ⟨he, hc, rfl⟩ hm htx

/-! ### READY (R25) -/

/-- Only a drain has a CLRRDY (R140, R145). -/
theorem isDrain_of_clrRdy_mem {n : Nat} {c : Instr} (h : .clrRdy ∈ mu n c) : isDrain c = true := by
  cases c
  case drd => rfl
  case drs => rfl
  all_goals simp [mu, muRdb, muRpr, muPxd, muPxs, muTxb, muTxsm, muTxem] at h

/-- A drain's micro-program ends with CLRRDY and has no other one (R140, R145). -/
theorem mu_drain_ends_clrRdy (n : Nat) {c : Instr} (h : isDrain c = true) :
    ∃ p, mu n c = p ++ [.clrRdy] ∧ .clrRdy ∉ p := by
  cases c
  case drd =>
    have hpix : .clrRdy ∉ repeated muPxd n := fun hm => absurd (mem_repeated hm) (by decide)
    exact ⟨muRpr ++ (repeated muPxd n ++ [.ackFv]), by simp [mu, muDrd], by simp [muRpr, hpix]⟩
  case drs =>
    have hpix : .clrRdy ∉ repeated muPxs n := fun hm => absurd (mem_repeated hm) (by decide)
    exact ⟨muRpr ++ (muTxsm ++ (repeated muPxs n ++ (muTxem ++ [.ackFv]))), by simp [mu, muDrs],
      by simp [muRpr, muTxsm, muTxem, hpix]⟩
  all_goals cases h

/-- CLRRDY stands only at the last position of a drain (R25). -/
theorem clrRdy_at_drain_end {n k : Nat} {c : Instr} (h : (mu n c)[k]? = some .clrRdy) :
    isDrain c = true ∧ k + 1 = muLength n c := by
  have hd := isDrain_of_clrRdy_mem (List.mem_of_getElem? h)
  obtain ⟨p, hp, hmem⟩ := mu_drain_ends_clrRdy n hd
  have hlen : muLength n c = p.length + 1 := by simp [← mu_length, hp]
  rw [hp] at h
  have hlt : k < p.length + 1 := by simpa using (List.getElem?_eq_some_iff.mp h).1
  have hge : ¬ k < p.length := fun hk =>
    hmem (List.mem_of_getElem? (by rwa [List.getElem?_append_left hk] at h))
  exact ⟨hd, by omega⟩

/-- Everything a step can do to READY (R25): keep it, set it by the interrupt step, clear it by reset or by a drain's
CLRRDY. -/
theorem step_ready {s t : State} (h : step s = .next t) :
    t.ready = s.ready ∨
    (t.ready = true ∧ s.nextMove = .interrupt ∧ s.fvPending = true) ∨
    (t.ready = false ∧ (s.nextMove = .reset ∨
      (s.nextMove = .block ∧ ∃ c, s.cmd = some c ∧ isDrain c = true ∧
        s.upc + 1 = muLength s.params.pixelCount c))) := by
  cases step_next h
  case interrupt hm hf ht => exact .inr (.inl ⟨by simp [ht], hm, hf⟩)
  case reset hm ht => exact .inr (.inr ⟨by simp [ht], .inl hm⟩)
  case performed c m hm _ hc hp _ ht =>
    by_cases hclr : m = .clrRdy
    · subst hclr
      exact .inr (.inr ⟨by simp [ht, MicroOp.perform], .inr ⟨hm, c, hc, clrRdy_at_drain_end hp⟩⟩)
    · exact .inl (by simp [ht, MicroOp.perform_ready_of_ne hclr])
  all_goals subst t; exact .inl (by simp)

/-- Settles O37, from `step_ready`: CLRRDY is no other micro-operation than a drain's last. -/
theorem onlyInterruptSetsReady : Obligations.OnlyInterruptSetsReady := by
  intro s t h
  rcases step_ready h with hkeep | ⟨hset, hcause⟩ | ⟨hclear, hcause⟩
  · constructor <;> intro hold hnew <;> simp [hkeep, hold] at hnew
  · exact ⟨fun _ _ => hcause, by simp [hset]⟩
  · exact ⟨by simp [hclear], fun _ _ => hcause⟩

/-! ### The missed-frame counter (R28) -/

/-- A possible loss, in a state `u` with the counter and the parameters of `s`, keeps the counter or is one. -/
theorem State.countMissed_cases {s u : State} (hp : u.params = s.params) (hc : u.missedCount = s.missedCount)
    (lost : Bool) :
    (u.countMissed lost).missedCount = s.missedCount ∨
      ((u.countMissed lost).missedCount = (s.countMissed true).missedCount ∧ lost = true) := by
  cases lost <;> simp [State.countMissed_missedCount, hp, hc]

/-- Everything a step can do to the missed-frame counter (R28): keep it, clear it by reset, or count in one of the three
cases. -/
theorem step_missedCount {s t : State} (h : step s = .next t) :
    t.missedCount = s.missedCount ∨
    (s.nextMove = .reset ∧ t.missedCount = 0) ∨
    (t.missedCount = (s.countMissed true).missedCount ∧ s.MissesFrame) := by
  have hcount := State.countMissed_cases s.afterChoice_params s.afterChoice_missedCount
  cases step_next h
  case reset hm ht => exact .inr (.inl ⟨hm, by simp [ht]⟩)
  case fvEdge hm ht =>
    subst ht
    rw [State.frameValidEdge_missedCount, State.afterChoice_fvPending]
    exact (hcount s.fvPending).imp_right fun ⟨hc, hf⟩ => .inr ⟨hc, .inl ⟨hm, hf⟩⟩
  case interrupt hm hf ht =>
    subst ht
    rw [State.interruptStep_missedCount, State.afterChoice_ready]
    exact (State.countMissed_cases (by simp) (by simp) s.ready).imp_right fun ⟨hc, hr⟩ =>
      .inr ⟨hc, .inr (.inl ⟨hm, hf, hr⟩)⟩
  case performed c m hm he hc hp _ ht =>
    subst ht
    rw [State.advance_missedCount]
    by_cases hack : m = .ackFv
    · subst hack
      rw [MicroOp.perform, State.ackFv_missedCount, State.afterChoice_fvPending]
      exact (hcount s.fvPending).imp_right fun ⟨hc', hf⟩ => .inr ⟨hc', .inr (.inr ⟨hm, he, hf, c, hc, hp⟩)⟩
    · exact .inl (by simp [MicroOp.perform_missedCount_of_ne hack])
  all_goals subst t; exact .inl (by simp)

/-- Each of the three cases of R28 counts. -/
theorem missedCount_of_missesFrame {s t : State} (h : step s = .next t) (hmiss : s.MissesFrame) :
    t.missedCount = (s.countMissed true).missedCount := by
  rw [step_eq] at h
  rcases hmiss with ⟨hm, hf⟩ | ⟨hm, hf, hr⟩ | ⟨hm, he, hf, c, hc, hp⟩ <;> rw [hm, take] at h
  · obtain rfl := Host.Outcome.next.inj h
    simp [State.countMissed_missedCount, hf]
  · obtain rfl := Host.Outcome.next.inj h
    simp [State.interruptMove, State.countMissed_missedCount, hf, hr]
  · have hat : s.afterChoice.At c s.upc := ⟨by simp [he], by simp [hc], by simp⟩
    rw [blockMove_busy (c := c) (by simp [he]) (by simp [hc]), exec_at hat (by simpa using hp) rfl] at h
    obtain rfl := Host.Outcome.next.inj h
    simp [MicroOp.perform, State.countMissed_missedCount, hf]

/-- Settles O39, from `missedCount_of_missesFrame` one way and `step_missedCount` the other. -/
theorem missedFramesAreCountedInThreeCases : Obligations.MissedFramesAreCountedInThreeCases := by
  refine ⟨fun s ho => by simp [State.readPort, State.missedCountPort, ho],
    fun s t h => ⟨fun ho hmiss => ?_, fun hne => ?_⟩⟩
  · rw [missedCount_of_missesFrame h hmiss, State.countMissed_on s ho, bump]
  · rcases step_missedCount h with hkeep | hreset | ⟨hcount, hmiss⟩
    · exact absurd hkeep hne
    · exact .inl hreset
    · refine .inr ⟨?_, hmiss⟩
      by_contra ho
      exact hne (by rw [hcount, State.countMissed_off true s (by simpa using ho)])

end Sys2Proof.Machine
end

section
/-! SUPPORT. The proofs of the statements on the encoding: what a word decodes to (spec/30_encoding.md R80 to R85). -/
namespace Sys2Proof

/-! ### The fields of a word (R80) -/

theorem opOf_append (op imm : Byte) : opOf (op ++ imm) = op := BitVec.extractLsb'_append_eq_left

theorem immOf_append (op imm : Byte) : immOf (op ++ imm) = imm := BitVec.extractLsb'_append_eq_right

/-- OP and IMM8 are a word's two bytes: no bit of a word is outside them. -/
theorem opOf_append_immOf (w : Word) : opOf w ++ immOf w = w := by
  rw [opOf, immOf, BitVec.extractLsb'_append_extractLsb'_eq_extractLsb' (by rfl), BitVec.extractLsb'_eq_self]

/-- A word is a command's word when its fields are the command's code and operand (R80, R83). -/
theorem eq_encode_iff_fields (w : Word) (i : Instr) : w = encode i ↔ opOf w = opcode i ∧ immOf w = operand i := by
  constructor
  · rintro rfl
    exact ⟨opOf_append _ _, immOf_append _ _⟩
  · rintro ⟨hop, himm⟩
    rw [encode, ← hop, ← himm, opOf_append_immOf]

/-! ### The decoder (R83 to R85) -/

/-- A command without operand, decoded under its code, has the word's fields (R84). -/
theorem fields_of_withoutOperand {i j : Instr} {w : Word} (h : withoutOperand i w = .ok j) (hop : opOf w = opcode i)
    (hi : operand i = 0) : opOf w = opcode j ∧ immOf w = operand j := by
  unfold withoutOperand at h
  split_ifs at h with himm
  obtain rfl := Except.ok.inj h
  exact ⟨hop, himm.trans hi.symm⟩

/-- A command the decoder answers has the word's fields, along the codes of R83. -/
theorem fields_of_decodeWord {w : Word} {i : Instr} (h : decodeWord w = .ok i) :
    opOf w = opcode i ∧ immOf w = operand i := by
  unfold decodeWord at h
  split_ifs at h with hrdb hrpr hpxd hpxs htxb htxsm htxem hdrd hdrs
  · exact fields_of_withoutOperand h hrdb rfl
  · exact fields_of_withoutOperand h hrpr rfl
  · exact fields_of_withoutOperand h hpxd rfl
  · exact fields_of_withoutOperand h hpxs rfl
  · obtain rfl := Except.ok.inj h
    exact ⟨htxb, rfl⟩
  · exact fields_of_withoutOperand h htxsm rfl
  · exact fields_of_withoutOperand h htxem rfl
  · exact fields_of_withoutOperand h hdrd rfl
  · exact fields_of_withoutOperand h hdrs rfl

/-- The decoder answers the command whose code and operand the word's fields are. -/
theorem decodeWord_of_fields {w : Word} {i : Instr} (hop : opOf w = opcode i) (himm : immOf w = operand i) :
    decodeWord w = .ok i := by
  cases i <;> simp [decodeWord, withoutOperand, hop, himm, opcode, operand]

theorem decode_eq_some_iff_decodeWord {w : Word} {i : Instr} : decode w = some i ↔ decodeWord w = .ok i := by
  unfold decode
  cases decodeWord w <;> simp

/-- A word decodes to a command exactly when it is that command's word (R83, R85). -/
theorem decode_eq_some_iff {w : Word} {i : Instr} : decode w = some i ↔ w = encode i := by
  rw [decode_eq_some_iff_decodeWord, eq_encode_iff_fields]
  exact ⟨fields_of_decodeWord, fun ⟨hop, himm⟩ => decodeWord_of_fields hop himm⟩

/-- The words of `TXB` are those with OP 0x10 (R81, R83). -/
theorem eq_encode_txb {w : Word} (hop : opOf w = 0x10) : w = encode (.txb (immOf w)) :=
  (eq_encode_iff_fields w _).mpr ⟨hop, rfl⟩

/-- Settles O3, from `decode_eq_some_iff`: a listed word is its command's word, and a word that decodes is listed. -/
theorem decodeAnswersEveryWord : Obligations.DecodeAnswersEveryWord := by
  intro w
  split_ifs with hrdb hrpr hpxd hpxs htxsm htxem hdrd hdrs htxb
  · exact decode_eq_some_iff.mpr hrdb
  · exact decode_eq_some_iff.mpr hrpr
  · exact decode_eq_some_iff.mpr hpxd
  · exact decode_eq_some_iff.mpr hpxs
  · exact decode_eq_some_iff.mpr htxsm
  · exact decode_eq_some_iff.mpr htxem
  · exact decode_eq_some_iff.mpr hdrd
  · exact decode_eq_some_iff.mpr hdrs
  · exact decode_eq_some_iff.mpr (eq_encode_txb htxb)
  · refine Option.eq_none_iff_forall_ne_some.mpr fun i hi => ?_
    have hw : w = encode i := decode_eq_some_iff.mp hi
    cases i with
    | rdb => exact hrdb hw
    | rpr => exact hrpr hw
    | pxd => exact hpxd hw
    | pxs => exact hpxs hw
    | txb b => exact htxb (hw ▸ opOf_append 0x10 b)
    | txsm => exact htxsm hw
    | txem => exact htxem hw
    | drd => exact hdrd hw
    | drs => exact hdrs hw

end Sys2Proof
end

section
/-! SUPPORT. The proofs of the statements on the reader: the levels of RCLK and RRST (spec/40_reader.md R102). -/
namespace Sys2Proof.Machine

/-! ### The levels a micro-program leaves (R102) -/

theorem linesAfter_snoc (p : List MicroOp) (m : MicroOp) : linesAfter (p ++ [m]) = linesStep (linesAfter p) m := by
  simp [linesAfter]

/-- Micro-operations that leave the lines at the idle levels make no difference to what comes after them. -/
theorem linesAfter_append_of_idle {p : List MicroOp} (h : linesAfter p = (true, false)) (q : List MicroOp) :
    linesAfter (p ++ q) = linesAfter q := by
  rw [linesAfter, List.foldl_append, ← linesAfter, h, linesAfter]

theorem linesAfter_repeated_of_idle {p : List MicroOp} (h : linesAfter p = (true, false)) (n : Nat) :
    linesAfter (repeated p n) = (true, false) := by
  induction n with
  | zero => rfl
  | succ n ih => rw [repeated, linesAfter_append_of_idle h, ih]

/-- Every micro-program ends at the idle levels: a drain because each of its parts does (R140, R145). -/
theorem linesAfter_mu (n : Nat) (c : Instr) : linesAfter (mu n c) = (true, false) := by
  have hrpr : linesAfter muRpr = (true, false) := rfl
  cases c
  case drd =>
    have hpix : linesAfter (repeated muPxd n) = (true, false) := linesAfter_repeated_of_idle rfl n
    rw [mu, muDrd, linesAfter_append_of_idle hrpr, linesAfter_append_of_idle hpix]
    rfl
  case drs =>
    have htxsm : linesAfter muTxsm = (true, false) := rfl
    have hpix : linesAfter (repeated muPxs n) = (true, false) := linesAfter_repeated_of_idle rfl n
    rw [mu, muDrs, linesAfter_append_of_idle hrpr, linesAfter_append_of_idle htxsm, linesAfter_append_of_idle hpix]
    rfl
  all_goals rfl

/-- The framer transmits bytes only (R170, R175, R176). -/
theorem eq_tx_of_mem_mu_framer {n : Nat} {c : Instr} (hc : c = .txsm ∨ c = .txem ∨ ∃ b, c = .txb b) :
    ∀ m ∈ mu n c, ∃ b, m = .tx (.imm b) := by
  obtain rfl | rfl | ⟨b, rfl⟩ := hc
  · simp [mu, muTxsm]
  · simp [mu, muTxem]
  · simp [mu, muTxb]

/-- A micro-operation moves the lines as `linesStep` says (R30). -/
theorem MicroOp.perform_lines (m : MicroOp) (s : State) :
    ((m.perform s).rclk, (m.perform s).rrst) = linesStep (s.rclk, s.rrst) m := by
  cases m <;> simp [MicroOp.perform, linesStep]

/-! ### What has been performed of the command in progress (R31) -/

theorem State.performed_idle {s : State} (hc : s.cmd = none) : s.performed = [] := by
  simp [State.performed, hc]

theorem State.performed_busy {c : Instr} {s : State} (hc : s.cmd = some c) :
    s.performed = (mu s.params.pixelCount c).take s.upc := by
  simp [State.performed, hc]

/-- With the micro-operation at `upc` one position more is performed. -/
theorem State.performed_snoc {c : Instr} {s : State} {m : MicroOp} (hc : s.cmd = some c)
    (hp : (mu s.params.pixelCount c)[s.upc]? = some m) :
    s.performed ++ [m] = (mu s.params.pixelCount c).take (s.upc + 1) := by
  rw [State.performed_busy hc, List.take_add_one, hp, Option.toList_some]

/-- With its last micro-operation a command has performed its whole micro-program. -/
theorem State.performed_snoc_last {c : Instr} {s : State} {m : MicroOp} (hc : s.cmd = some c)
    (hp : (mu s.params.pixelCount c)[s.upc]? = some m) (hlast : s.upc + 1 = muLength s.params.pixelCount c) :
    s.performed ++ [m] = mu s.params.pixelCount c := by
  rw [State.performed_snoc hc hp, hlast, ← mu_length, List.take_length]

/-! ### The lines at every step (R102) -/

/-- An idle block has its lines driven when they have the idle levels. -/
theorem State.linesDriven_iff_of_idle {s : State} (hc : s.cmd = none) :
    s.LinesDriven ↔ s.rclk = true ∧ s.rrst = false := by
  simp [State.LinesDriven, State.performed_idle hc, linesAfter]

/-- Only the two lines, the sequencer and the parameters matter. -/
theorem State.LinesDriven.congr {s t : State} (hs : s.LinesDriven) (hrclk : t.rclk = s.rclk) (hrrst : t.rrst = s.rrst)
    (hcmd : t.cmd = s.cmd) (hupc : t.upc = s.upc) (hparams : t.params = s.params) : t.LinesDriven := by
  unfold State.LinesDriven State.performed at *
  rwa [hrclk, hrrst, hcmd, hupc, hparams]

/-- A command starts at position 0, where nothing is performed, and a refused drain leaves the block idle (R86, R202). -/
theorem State.LinesDriven.start {s : State} (hs : s.LinesDriven) (hc : s.cmd = none) (c : Instr) (r : Bool) :
    (s.start c r).LinesDriven := by
  obtain ⟨hrclk, hrrst⟩ := (State.linesDriven_iff_of_idle hc).mp hs
  obtain ⟨_, _, hfault⟩ | ⟨_, hstart⟩ := s.start_cases c r
  · rw [hfault]
    exact hs.congr rfl rfl rfl rfl rfl
  · rw [hstart]
    simp [State.LinesDriven, State.performed, linesAfter, hrclk, hrrst]

/-- The block step of a command: going on, the lines follow the micro-operation; retiring, they are where the whole
micro-program leaves them, at the idle levels. -/
theorem State.LinesDriven.perform_advance {c : Instr} {s : State} {m : MicroOp} (hs : s.LinesDriven)
    (hc : s.cmd = some c) (hp : (mu s.params.pixelCount c)[s.upc]? = some m) :
    ((m.perform s).advance (muLength s.params.pixelCount c)).LinesDriven := by
  have hlines : ((m.perform s).rclk, (m.perform s).rrst) = linesAfter (s.performed ++ [m]) := by
    rw [MicroOp.perform_lines, hs, linesAfter_snoc]
  by_cases hlast : s.upc + 1 = muLength s.params.pixelCount c
  · rw [State.performed_snoc_last hc hp hlast, linesAfter_mu] at hlines
    rw [State.advance_last (by simpa using hlast)]
    exact hlines
  · rw [State.performed_snoc hc hp] at hlines
    rw [State.advance_more (by simpa using hlast)]
    simpa [State.LinesDriven, State.performed, hc] using hlines

/-- Every step keeps the lines at the levels the performed micro-operations leave (R102). -/
theorem step_keeps_linesDriven {s t : State} (hs : s.LinesDriven) (h : step s = .next t) : t.LinesDriven := by
  have hchosen : s.afterChoice.LinesDriven := hs.congr (by simp) (by simp) (by simp) (by simp) (by simp)
  cases step_next h
  case accepted w i _ _ hc _ _ ht =>
    have htaken : (s.afterChoice.takeWord w).LinesDriven := hchosen.congr rfl rfl rfl rfl rfl
    exact ht ▸ htaken.start (by simpa using hc) i _
  case performed c m _ _ hc hp _ ht =>
    have := hchosen.perform_advance (c := c) (m := m) (by simpa using hc) (by simpa using hp)
    simpa [ht] using this
  case reset _ ht => exact ht ▸ (State.linesDriven_iff_of_idle rfl).mpr ⟨rfl, rfl⟩
  all_goals subst t; exact hchosen.congr (by simp) (by simp) (by simp) (by simp) (by simp)

/-- Settles O50: `step_keeps_linesDriven` is the step, `linesAfter_mu` the end of every micro-program, and the framer's
micro-operations are transmits. -/
theorem idleLevelsHold : Obligations.IdleLevelsHold := by
  refine ⟨rfl, fun _ _ => step_keeps_linesDriven, fun _ hs hc => (State.linesDriven_iff_of_idle hc).mp hs,
    linesAfter_mu, fun _ _ _ hc => ?_⟩
  constructor <;> intro hm <;> obtain ⟨_, htx⟩ := eq_tx_of_mem_mu_framer hc _ hm <;> cases htx

end Sys2Proof.Machine
end

section
/-! SUPPORT. The proofs of the statements on the frame drain: where the micro-operations of a drain stand
(spec/41_drain.md R146), and that only a reset cuts a command short (R149). -/
namespace Sys2Proof.Machine

/-! ### A micro-program around `n` copies of a block -/

theorem repeated_add (p : List MicroOp) (i j : Nat) : repeated p (i + j) = repeated p i ++ repeated p j := by
  induction j with
  | zero => simp [repeated]
  | succ j ih => rw [Nat.add_succ, repeated_succ_right, repeated_succ_right, ih, List.append_assoc]

theorem repeated_countP (f : MicroOp → Bool) (p : List MicroOp) (n : Nat) :
    (repeated p n).countP f = p.countP f * n := by
  induction n with
  | zero => rfl
  | succ n ih => rw [repeated_succ_right, List.countP_append, ih, Nat.mul_succ]

section
variable (pre p post : List MicroOp) {n i k : Nat}

/-- Position `k` of the `i`-th copy stands behind `pre` and `i` whole copies. -/
theorem getElem?_copy (hi : i < n) (hk : k < p.length) :
    (pre ++ (repeated p n ++ post))[pre.length + p.length * i + k]? = p[k]? := by
  have hpos : (repeated p n)[p.length * i + k]? = p[k]? := repeated_getElem? p n i k hi hk
  have hlt : p.length * i + k < (repeated p n).length :=
    (List.getElem?_eq_some_iff.mp (hpos.trans (List.getElem?_eq_getElem hk))).1
  rw [Nat.add_assoc, List.getElem?_append_right (by omega), Nat.add_sub_cancel_left,
    List.getElem?_append_left hlt, hpos]

/-- Position `k` of `post` stands behind `pre` and all `n` copies. -/
theorem getElem?_after_copies (n k : Nat) :
    (pre ++ (repeated p n ++ post))[pre.length + p.length * n + k]? = post[k]? := by
  rw [← List.append_assoc, List.getElem?_append_right (by simp [repeated_length])]
  simp [repeated_length]

/-- Before the `i`-th copy stand `pre` and `i` whole copies. -/
theorem take_before_copy (hi : i ≤ n) :
    (pre ++ (repeated p n ++ post)).take (pre.length + p.length * i) = pre ++ repeated p i := by
  obtain ⟨j, rfl⟩ := Nat.exists_eq_add_of_le hi
  rw [repeated_add, List.append_assoc, ← List.append_assoc]
  exact List.take_left' (by simp [repeated_length])

end

/-! ### The index map of the drains (R146) -/

theorem mu_drd_eq (n : Nat) : mu n .drd = muRpr ++ (repeated muPxd n ++ [.ackFv, .clrRdy]) := rfl

/-- The prefix of a DRS is the rewind with the start marker (R145). -/
theorem mu_drs_eq (n : Nat) :
    mu n .drs = (muRpr ++ muTxsm) ++ (repeated muPxs n ++ (muTxem ++ [.ackFv, .clrRdy])) := rfl

theorem mu_drd_pixel {n i k : Nat} (hi : i < n) (hk : k < 7) :
    (mu n .drd)[6 + 7 * i + k]? = (mu n .pxd)[k]? := by
  rw [mu_drd_eq]
  exact getElem?_copy muRpr muPxd _ hi hk

theorem mu_drs_pixel {n i k : Nat} (hi : i < n) (hk : k < 8) :
    (mu n .drs)[8 + 8 * i + k]? = (mu n .pxs)[k]? := by
  rw [mu_drs_eq]
  exact getElem?_copy (muRpr ++ muTxsm) muPxs _ hi hk

/-- After its pixels a DRD acknowledges the edge and clears READY (R140). -/
theorem mu_drd_end (n k : Nat) : (mu n .drd)[7 * n + 6 + k]? = [MicroOp.ackFv, .clrRdy][k]? := by
  rw [mu_drd_eq, Nat.add_comm (7 * n) 6]
  exact getElem?_after_copies muRpr muPxd _ n k

/-- After its pixels a DRS sends the end marker, acknowledges the edge and clears READY (R145). -/
theorem mu_drs_end (n k : Nat) : (mu n .drs)[8 * n + 8 + k]? = (muTxem ++ [MicroOp.ackFv, .clrRdy])[k]? := by
  rw [mu_drs_eq, Nat.add_comm (8 * n) 8]
  exact getElem?_after_copies (muRpr ++ muTxsm) muPxs _ n k

/-- The rewind takes no sample and each pixel two. -/
theorem mu_drd_samples {n i : Nat} (hi : i < n) : ((mu n .drd).take (6 + 7 * i)).countP isSample = 2 * i := by
  have htake : (mu n .drd).take (6 + 7 * i) = muRpr ++ repeated muPxd i := by
    rw [mu_drd_eq]
    exact take_before_copy muRpr muPxd _ hi.le
  have hpre : muRpr.countP isSample = 0 := rfl
  have hpix : muPxd.countP isSample = 2 := rfl
  rw [htake, List.countP_append, repeated_countP, hpre, hpix, Nat.zero_add]

/-- The rewind and the start marker take no sample and each pixel two. -/
theorem mu_drs_samples {n i : Nat} (hi : i < n) : ((mu n .drs).take (8 + 8 * i)).countP isSample = 2 * i := by
  have htake : (mu n .drs).take (8 + 8 * i) = (muRpr ++ muTxsm) ++ repeated muPxs i := by
    rw [mu_drs_eq]
    exact take_before_copy (muRpr ++ muTxsm) muPxs _ hi.le
  have hpre : (muRpr ++ muTxsm).countP isSample = 0 := rfl
  have hpix : muPxs.countP isSample = 2 := rfl
  rw [htake, List.countP_append, repeated_countP, hpre, hpix, Nat.zero_add]

/-- Settles O12: the pixels, what follows them and the samples before them have their lemmas above; the start marker stands
at fixed positions. -/
theorem drainIndexMap : Obligations.DrainIndexMap := fun n =>
  ⟨fun _ _ => mu_drd_pixel, mu_drd_end n 0, mu_drd_end n 1, fun _ _ => mu_drs_pixel, rfl, rfl,
    mu_drs_end n 0, mu_drs_end n 1, mu_drs_end n 2, mu_drs_end n 3,
    fun _ hi => ⟨mu_drd_samples hi, mu_drs_samples hi⟩⟩

/-! ### No cancellation (R149) -/

/-- Settles O41: the acceptances need an idle block, a performed micro-operation advances or retires, and every other step
leaves the sequencer as it is. -/
theorem onlyResetCutsACommandShort : Obligations.OnlyResetCutsACommandShort := by
  intro s t c hcmd h hreset
  cases step_next h
  case performed d m hm _ hc _ _ ht =>
    obtain rfl : c = d := Option.some.inj (hcmd.symm.trans hc)
    by_cases hlast : s.upc + 1 = muLength s.params.pixelCount c
    · rw [State.advance_last (by simpa using hlast)] at ht
      exact .inr ⟨by simp [ht], hm, hlast⟩
    · rw [State.advance_more (by simpa using hlast)] at ht
      exact .inl ⟨by simp [ht, hcmd], .inr ⟨hm, by simp [ht]⟩⟩
  case illegal _ _ _ hc _ _ _ => exact absurd (hcmd.symm.trans hc) nofun
  case accepted _ _ _ _ hc _ _ _ => exact absurd (hcmd.symm.trans hc) nofun
  case reset hm _ => exact absurd hm hreset
  all_goals subst t; exact .inl ⟨by simp [hcmd], .inl (by simp)⟩

end Sys2Proof.Machine
end

section
/-! SUPPORT. The proofs of the statements on the exceptions: the interrupt step (spec/60_exceptions.md R210, R211), what
raises a fault (R202), and the transmit stall (R204). -/
namespace Sys2Proof.Machine

/-! ### The interrupt step (R210) -/

/-- What the interrupt step does, the missed frame counted as R28 writes it. -/
theorem State.interruptStep_eq (s : State) :
    s.interruptStep = { s with
      ready := true, fvPending := false
      missedCount := if s.params.missedFrameCounter = true ∧ s.ready = true then
          (s.missedCount + 1) % 2 ^ s.params.frameCountWidth
        else s.missedCount
      hist := s.hist ++ [.isr s.ready] } := by
  rw [State.interruptStep, State.countMissed_eq]; rfl

/-- Settles O31, from `interruptStep_eq`: the interrupt context's turn is the interrupt step exactly when an edge is
pending. -/
theorem interruptStepIsTheRules : Obligations.InterruptStepIsTheRules := by
  refine fun s => ⟨fun hf => ?_, fun hf => ?_⟩
  · rw [take, State.interruptMove, if_pos hf, State.interruptStep_eq]
  · simp [take, State.interruptMove, hf]

/-! ### What raises a fault (R202) -/

/-- The two drains are DRD and DRS (R86). -/
theorem eq_drd_or_drs_of_isDrain {c : Instr} (h : isDrain c = true) : c = .drd ∨ c = .drs := by
  cases c
  case drd => exact .inl rfl
  case drs => exact .inr rfl
  all_goals cases h

/-- An acceptance that raises a fault takes the word, sets `err` and records both, and nothing else (R202). -/
theorem State.takeWord_raiseFault (w : Word) (c : ErrCode) (s : State) :
    (s.takeWord w).raiseFault c =
      { s with cmdPort := none, err := c, hist := s.hist ++ [.accept w, .fault c] } := by
  simp [State.takeWord, State.raiseFault, State.emit]

/-- Settles O43: of the steps that are no reset only the two faulting acceptances change `err`, and
`takeWord_raiseFault` is their next state. -/
theorem faultsAreRaisedByAcceptanceOnly : Obligations.FaultsAreRaisedByAcceptanceOnly := by
  intro s t h herr hreset
  cases step_next h
  case illegal w hm he hc hw hd ht =>
    rw [State.takeWord_raiseFault, State.afterChoice_hist] at ht
    subst ht
    exact ⟨w, hm, ⟨he, hc⟩, hw, rfl, .inl ⟨rfl, hd⟩⟩
  case accepted w i hm he hc hw hd ht =>
    obtain ⟨hdrain, hready, hstart⟩ | ⟨_, hstart⟩ := (s.afterChoice.takeWord w).start_cases i (isDrain i)
    · rw [hstart, State.takeWord_raiseFault, State.afterChoice_hist] at ht
      have hword := (eq_drd_or_drs_of_isDrain hdrain).imp (fun hi => hi ▸ hd) (fun hi => hi ▸ hd)
      subst ht
      exact ⟨w, hm, ⟨he, hc⟩, hw, rfl, .inr ⟨rfl, by simpa using hready, hword⟩⟩
    · exact absurd (by simp [ht, hstart]) herr
  case reset hm _ => exact absurd hm hreset
  all_goals subst t; exact absurd (by simp) herr

/-! ### The transmit stall (R204) -/

/-- A run that begins with a step goes on from where that step ends. -/
theorem run_succ_of_step {s t : State} (h : step s = .next t) (k : Nat) : run (k + 1) s = run k t := by
  have hcore : Sys2Proof.core.step s = .next t := h
  simp only [run, Host.Core.run, hcore]
  rfl

/-- `t` stands where `s` does: at the same micro-operation and level of TX_READY, with nothing more transmitted and no
frame counted, and READY still 1 if it was. -/
structure State.HangsAt (s t : State) : Prop where
  err : t.err = s.err
  cmd : t.cmd = s.cmd
  upc : t.upc = s.upc
  params : t.params = s.params
  txReady : t.txReady = s.txReady
  frameCount : t.frameCount = s.frameCount
  transmitted : txStream t.hist = txStream s.hist
  ready : s.ready = true → t.ready = true

theorem State.HangsAt.refl (s : State) : s.HangsAt s := ⟨rfl, rfl, rfl, rfl, rfl, rfl, rfl, id⟩

theorem State.HangsAt.trans {s t u : State} (h : s.HangsAt t) (k : t.HangsAt u) : s.HangsAt u where
  err := k.err.trans h.err
  cmd := k.cmd.trans h.cmd
  upc := k.upc.trans h.upc
  params := k.params.trans h.params
  txReady := k.txReady.trans h.txReady
  frameCount := k.frameCount.trans h.frameCount
  transmitted := k.transmitted.trans h.transmitted
  ready := k.ready ∘ h.ready

/-- A stalled block stays stalled where it stands. -/
theorem State.Stalled.of_hangsAt {s t : State} (hs : s.Stalled) (h : s.HangsAt t) : t.Stalled := by
  unfold State.Stalled
  rwa [h.err, h.txReady, h.cmd, h.upc, h.params]

/-- The block's turn at a stall is a hold: a `TX` is not enabled at TX_READY = 0 (R30, R31). -/
theorem blockMove_stalled {s : State} (hs : s.Stalled) : blockMove s = .next s := by
  obtain ⟨he, htx, c, src, hc, hm⟩ := hs
  rw [blockMove_busy he hc]
  exact exec_hold ⟨he, hc, rfl⟩ hm htx

/-- A pending edge's interrupt step can only set READY. -/
theorem State.interruptMove_hangsAt (s : State) : s.HangsAt s.interruptMove := by
  by_cases hf : s.fvPending = true
  · rw [State.interruptMove, if_pos hf]
    constructor <;> simp [txStream]
  · rw [State.interruptMove, if_neg hf]
    exact .refl s

/-- No move but a reset and TX_READY going to 1 takes the block out of a stall. -/
theorem take_stalled {s : State} {m : Config.Move} (hs : s.Stalled) (hreset : m ≠ .reset)
    (htx : m ≠ .setTxReady true) : ∃ t, take m s = .next t ∧ t.agenda = s.agenda ∧ s.HangsAt t := by
  cases m with
  | block => exact ⟨s, blockMove_stalled hs, rfl, .refl s⟩
  | interrupt => exact ⟨_, rfl, by simp, s.interruptMove_hangsAt⟩
  | issue w => exact ⟨_, rfl, by simp, by constructor <;> simp⟩
  | read p => exact ⟨_, rfl, rfl, by constructor <;> simp⟩
  | reset => exact absurd rfl hreset
  | setTxReady b =>
    obtain ⟨_, hlow, _⟩ := hs
    obtain rfl : b = false := by simpa using htx
    exact ⟨_, rfl, rfl, by constructor <;> simp [hlow]⟩
  | fvEdge => exact ⟨_, rfl, by simp, by constructor <;> simp [txStream]⟩

/-- A stalled block hangs through every list of such moves. -/
theorem run_stalled {ms rest : List Config.Move} {s : State} (hs : s.Stalled) (ha : s.agenda = ms ++ rest)
    (hreset : .reset ∉ ms) (htx : .setTxReady true ∉ ms) :
    ∃ t, run ms.length s = .next t ∧ s.HangsAt t := by
  induction ms generalizing s with
  | nil => exact ⟨s, rfl, .refl s⟩
  | cons m ms ih =>
    obtain ⟨hm, hms⟩ := List.ne_and_not_mem_of_not_mem_cons hreset
    obtain ⟨hmtx, hmstx⟩ := List.ne_and_not_mem_of_not_mem_cons htx
    have hchosen : s.HangsAt { s with agenda := ms ++ rest } := ⟨rfl, rfl, rfl, rfl, rfl, rfl, rfl, id⟩
    obtain ⟨t, htake, hta, ht⟩ := take_stalled (hs.of_hangsAt hchosen) hm.symm hmtx.symm
    have hst : s.HangsAt t := hchosen.trans ht
    obtain ⟨u, hrun, hu⟩ := ih (hs.of_hangsAt hst) hta hms hmstx
    refine ⟨u, ?_, hst.trans hu⟩
    rw [List.length_cons, run_succ_of_step ((step_cons ha).trans htake), hrun]

/-- Settles O44, from `run_stalled`: a block that hangs where it stood is still stalled. -/
theorem stalledBlockHangs : Obligations.StalledBlockHangs := by
  intro ms rest s hs ha hreset htx
  obtain ⟨t, hrun, ht⟩ := run_stalled hs ha hreset htx
  exact ⟨t, hrun, hs.of_hangsAt ht, ht.cmd, ht.upc, ht.frameCount, ht.transmitted, ht.ready⟩

end Sys2Proof.Machine
end

section
/-! SUPPORT. The proof of the statement on the reset step (spec/70_reset_and_hazards.md R250, R251, R254). -/
namespace Sys2Proof.Machine

/-- After a reset STATUS shows RCLK high and the environment's TX_READY, and every other field is 0 (R251). -/
theorem State.resetStep_status (s : State) :
    s.resetStep.status = 0x0040 ||| (BitVec.ofNat 16 s.txReady.toNat <<< 3) := by
  simp only [State.status, State.busy, State.resetStep_rclk, State.resetStep_rrst, State.resetStep_err,
    State.resetStep_txReady, State.resetStep_cmd, State.resetStep_fvPending, State.resetStep_ready]
  cases s.txReady
  · decide
  · decide

/-- The start state agrees with a reset of an empty history on every block element and on the history (R254). -/
theorem State.reset_eq_resetStep {s : State} (hs : s.hist = []) :
    State.reset = { s.resetStep with
      txReady := State.reset.txReady, cmdPort := State.reset.cmdPort, params := State.reset.params
      bus := State.reset.bus, agenda := State.reset.agenda, draws := State.reset.draws } := by
  have hhist : State.reset.hist = s.resetStep.hist := by rw [State.resetStep_hist, hs]; rfl
  exact congrArg (fun h => { State.reset with hist := h }) hhist

/-- Settles O34: the move answers `resetStep`, whose STATUS and whose relation to the start state are the two lemmas
above. -/
theorem resetStepIsTheRules : Obligations.ResetStepIsTheRules := fun s =>
  ⟨s.resetStep, rfl, rfl, s.resetStep_status, State.reset_eq_resetStep⟩

end Sys2Proof.Machine
end

section
/-! SUPPORT. The proofs of the round trips of the encoding (spec/30_encoding.md R83 to R85). -/
namespace Sys2Proof

/-- Settles O1, from `decode_eq_some_iff`. -/
theorem decodeInvertsEncode : Obligations.DecodeInvertsEncode :=
  fun _ _ => decode_eq_some_iff.mpr rfl

/-- Settles O2, from `decode_eq_some_iff`. -/
theorem encodeInvertsDecode : Obligations.EncodeInvertsDecode :=
  fun _ _ h => (decode_eq_some_iff.mp h).symm

/-- Settles O4: the listed words are those of R83, the last four have an illegal OP or operand. -/
theorem specWordsDecode : Obligations.SpecWordsDecode := by
  unfold Obligations.SpecWordsDecode
  decide

end Sys2Proof
end

section
/-! SUPPORT. What each step adds to the history, and the statements that follow from it: the history grows, it gives the
state's account (spec/10_state.md R33), and only a drain's end counts frames (R27). -/
namespace Sys2Proof.Machine

/-! ### The event of a micro-operation (R30) -/

/-- The event a micro-operation records when performed in state `s` (R30). -/
def MicroOp.event (s : State) : MicroOp → Event
  | .rclk l => .rclk l
  | .rrst a => .rrst a
  | .sample _ => .sample s.busSample.1
  | .tx src => .tx (s.source src).1
  | .pix => .pix (pixelOf (s.byteOf s.hi).1 ((s.byteOf s.hi).2.byteOf s.lo).1)
  | .ackFv => .ackFv s.fvPending
  | .clrRdy => .frameDone (bump s.params s.frameCount)

/-- A micro-operation records its event, and no other one (R30). -/
@[simp] theorem MicroOp.perform_hist (s : State) (m : MicroOp) : (m.perform s).hist = s.hist ++ [m.event s] := by
  cases m
  case pix => simp [MicroOp.perform, MicroOp.event, State.putPixel]
  all_goals simp [MicroOp.perform, MicroOp.event]

/-- No micro-operation records the event of an acceptance. -/
theorem MicroOp.event_ne_accept (s : State) (m : MicroOp) (w : Word) : m.event s ≠ .accept w := by
  cases m <;> exact nofun

/-- Only CLRRDY counts a frame (R27). -/
theorem MicroOp.perform_frameCount_of_ne {m : MicroOp} (h : m ≠ .clrRdy) (s : State) :
    (m.perform s).frameCount = s.frameCount := by
  cases m
  case clrRdy => exact absurd rfl h
  all_goals simp [MicroOp.perform]

/-! ### The account of the history (R33) -/

/-- A micro-operation changes the account as its event says (R30). -/
theorem MicroOp.perform_account (s : State) (m : MicroOp) :
    (m.perform s).account = Account.after s.params s.account (m.event s) := by
  cases m
  case ackFv =>
    simp [State.account, MicroOp.perform, MicroOp.event, Account.after, Account.count, State.countMissed_missedCount,
      bump]
  all_goals simp [State.account, MicroOp.perform, MicroOp.event, Account.after, State.putPixel, bump]

/-- Every step adds events that say what it does to the account (R33). -/
theorem step_account {s t : State} (h : step s = .next t) :
    ∃ e, t.hist = s.hist ++ e ∧ t.account = e.foldl (Account.after s.params) s.account := by
  have hchosen : s.afterChoice.account = s.account := by simp [State.account]
  cases step_next h
  case accepted w i _ _ _ _ _ ht =>
    obtain ⟨_, _, hstart⟩ | ⟨_, hstart⟩ := (s.afterChoice.takeWord w).start_cases i (isDrain i)
    · exact ⟨[.accept w, .fault .drainNotReady], by simp [ht, hstart],
        by simp [ht, hstart, State.account, Account.after]⟩
    · exact ⟨[.accept w], by simp [ht, hstart], by simp [ht, hstart, State.account, Account.after]⟩
  case illegal w _ _ _ _ _ ht =>
    exact ⟨[.accept w, .fault .illegalCmd], by simp [ht], by simp [ht, State.account, Account.after]⟩
  case performed c m _ _ _ _ _ ht =>
    have hm := m.perform_account s.afterChoice
    rw [hchosen, State.afterChoice_params] at hm
    exact ⟨[m.event s.afterChoice], by simp [ht], by simpa [ht, State.account] using hm⟩
  case interrupt _ _ ht =>
    refine ⟨[.isr s.ready], by simp [ht], ?_⟩
    simp [ht, State.account, Account.after, Account.count, State.countMissed_missedCount, bump]
  case fvEdge _ ht =>
    refine ⟨[.fvEdge], by simp [ht], ?_⟩
    simp [ht, State.account, Account.after, Account.count, State.countMissed_missedCount, bump]
  case reset _ ht => exact ⟨[.reset], by simp [ht], by simp [ht, State.account, Account.after, Account.initial]⟩
  all_goals subst t; exact ⟨[], by simp, by simp [State.account]⟩

/-- No step changes the parameters (R7). -/
theorem step_params {s t : State} (h : step s = .next t) : t.params = s.params := by
  cases step_next h
  all_goals subst t; simp

/-- Settles O51: the events a step adds take the account of the old history to that of the new one. -/
theorem historyRecordsTheState : Obligations.HistoryRecordsTheState := by
  refine ⟨rfl, fun s t hs h => ?_⟩
  obtain ⟨e, hh, ha⟩ := step_account h
  rw [State.Recorded, ha, hs, hh, step_params h, List.foldl_append]

/-- Settles O45, from `step_account`. -/
theorem historyOnlyGrows : Obligations.HistoryOnlyGrows := fun _ _ h =>
  (step_account h).imp fun _ he => he.1

/-! ### The frame counter (R27) -/

/-- Settles O38: of the steps but reset only the one that performs CLRRDY changes the counter. -/
theorem onlyDrainEndCountsFrames : Obligations.OnlyDrainEndCountsFrames := by
  intro s t h hne
  cases step_next h
  case reset hm ht => exact .inl ⟨hm, by simp [ht]⟩
  case performed c m hm _ hc hp _ ht =>
    obtain rfl : m = .clrRdy := by
      by_contra hclr
      exact hne (by simp [ht, MicroOp.perform_frameCount_of_ne hclr])
    exact .inr ⟨hm, ⟨c, hc, clrRdy_at_drain_end hp⟩, by simp [ht, MicroOp.perform, bump]⟩
  all_goals subst t; exact absurd (by simp) hne

/-- Only FrameDone and Reset change the count of completed drains. -/
theorem completedDrains_snoc_of_ne {e : Event} (hdone : ∀ n, e ≠ .frameDone n) (hreset : e ≠ .reset)
    (h : List Event) : completedDrains (h ++ [e]) = completedDrains h := by
  rw [completedDrains_snoc]
  cases e
  case frameDone n => exact absurd rfl (hdone n)
  case reset => exact absurd rfl hreset
  all_goals rfl

/-- Every micro-operation adds to the count what it adds to the counter, modulo 2^W (R27). -/
theorem State.CountsDrains.perform {s : State} (hs : s.CountsDrains) (m : MicroOp) :
    (m.perform s).CountsDrains := by
  rw [State.CountsDrains, MicroOp.perform_hist, MicroOp.perform_params]
  by_cases hclr : m = .clrRdy
  · subst hclr
    rw [MicroOp.perform, State.clearReady_frameCount, bump, hs, MicroOp.event, completedDrains_snoc,
      Nat.mod_add_mod]
  · rw [MicroOp.perform_frameCount_of_ne hclr, hs, completedDrains_snoc_of_ne]
    · cases m
      case clrRdy => exact absurd rfl hclr
      all_goals exact nofun
    · cases m <;> exact nofun

theorem State.CountsDrains.takeWord {s : State} (hs : s.CountsDrains) (w : Word) : (s.takeWord w).CountsDrains := by
  rwa [State.CountsDrains, State.takeWord_hist, completedDrains_snoc]

theorem State.CountsDrains.raiseFault {s : State} (hs : s.CountsDrains) (c : ErrCode) :
    (s.raiseFault c).CountsDrains := by
  rwa [State.CountsDrains, State.raiseFault_hist, completedDrains_snoc]

/-- Settles O52: of the events a step adds only the FrameDone of CLRRDY and a Reset count. -/
theorem frameCounterCountsDrains : Obligations.FrameCounterCountsDrains := by
  refine ⟨rfl, fun s t hs h => ?_⟩
  have hchosen : s.afterChoice.CountsDrains := by simpa [State.CountsDrains] using hs
  cases step_next h
  case performed c m _ _ _ _ _ ht => simpa [ht, State.CountsDrains] using hchosen.perform m
  case illegal w _ _ _ _ _ ht => exact ht ▸ (hchosen.takeWord w).raiseFault .illegalCmd
  case accepted w i _ _ _ _ _ ht =>
    obtain ⟨_, _, hstart⟩ | ⟨_, hstart⟩ := (s.afterChoice.takeWord w).start_cases i (isDrain i)
    · exact ht ▸ hstart ▸ (hchosen.takeWord w).raiseFault .drainNotReady
    · exact ht ▸ hstart ▸ hchosen.takeWord w
  case reset _ ht => simp [ht, State.CountsDrains, completedDrains_snoc]
  all_goals subst t; simpa [State.CountsDrains, completedDrains_snoc] using hs

end Sys2Proof.Machine
end

section
/-! SUPPORT. The steps that leave the block where it is, and the machine's invariant (spec/10_state.md R23 to R28,
spec/60_exceptions.md R202, R211). -/
namespace Sys2Proof.Machine

/-! ### Steps that leave the block where it is (R107, R211) -/

/-- `t` differs from `s` in nothing the block drives, samples or writes, and at most the events of the frame-valid line and
of the interrupt step have been added (R107, R211). -/
structure State.SameBlock (s t : State) : Prop where
  rclk : t.rclk = s.rclk
  rrst : t.rrst = s.rrst
  latch : t.latch = s.latch
  hi : t.hi = s.hi
  lo : t.lo = s.lo
  pix16 : t.pix16 = s.pix16
  bus : t.bus = s.bus
  cmd : t.cmd = s.cmd
  upc : t.upc = s.upc
  err : t.err = s.err
  frameCount : t.frameCount = s.frameCount
  params : t.params = s.params
  hist : t.hist = s.hist ∨ t.hist = s.hist ++ [.fvEdge] ∨ ∃ r, t.hist = s.hist ++ [.isr r]

/-- What a step can do to the block: leave it where it is, reset it, accept a word, or perform a micro-operation. -/
inductive BlockCase (s t : State) : Prop where
  | same (h : s.SameBlock t)
  | reset (hm : s.nextMove = .reset) (h : t = s.afterChoice.resetStep)
  | illegal (w : Word) (hm : s.nextMove = .block) (he : s.err = .none) (hc : s.cmd = none)
      (hw : s.cmdPort = some w) (hd : decode w = none)
      (h : t = (s.afterChoice.takeWord w).raiseFault .illegalCmd)
  | accepted (w : Word) (i : Instr) (hm : s.nextMove = .block) (he : s.err = .none) (hc : s.cmd = none)
      (hw : s.cmdPort = some w) (hd : decode w = some i)
      (h : t = (s.afterChoice.takeWord w).start i (isDrain i))
  | performed (c : Instr) (m : MicroOp) (hm : s.nextMove = .block) (he : s.err = .none) (hc : s.cmd = some c)
      (hp : (mu s.params.pixelCount c)[s.upc]? = some m) (hen : m.enabled s = true)
      (h : t = (m.perform s.afterChoice).advance (muLength s.params.pixelCount c))

/-- A step is one of these cases: no other agent's step changes anything of the block. -/
theorem step_block {s t : State} (h : step s = .next t) : BlockCase s t := by
  cases step_next h
  case illegal w hm he hc hw hd ht => exact .illegal w hm he hc hw hd ht
  case accepted w i hm he hc hw hd ht => exact .accepted w i hm he hc hw hd ht
  case performed c m hm he hc hp hen ht => exact .performed c m hm he hc hp hen ht
  case reset hm ht => exact .reset hm ht
  all_goals subst t; exact .same (by constructor <;> simp)

/-- The events other agents add are no trace events. -/
theorem State.SameBlock.traceEvents_hist {s t : State} (h : s.SameBlock t) : traceEvents t.hist = traceEvents s.hist := by
  obtain hh | hh | ⟨r, hh⟩ := h.hist <;> rw [hh]
  · simp [traceEvents, isTraceEvent, isOutput]
  · simp [traceEvents, isTraceEvent, isOutput]

/-- Settles O40: a step that is neither the block's nor a reset leaves the block where it is. -/
theorem onlyTheBlockTouchesTheBus : Obligations.OnlyTheBlockTouchesTheBus := by
  intro s t h hblock hreset
  cases step_block h
  case same hs =>
    exact ⟨hs.rclk, hs.rrst, hs.latch, hs.hi, hs.lo, hs.pix16, hs.bus, hs.cmd, hs.upc, hs.err, hs.frameCount,
      hs.traceEvents_hist⟩
  case reset hm _ => exact absurd hm hreset
  all_goals exact absurd ‹s.nextMove = .block› hblock

/-! ### Byte registers are written before they are read (R23) -/

/-- The samples that write the byte registers a micro-operation reads (R30). -/
def MicroOp.reads : MicroOp → List MicroOp
  | .tx .hi => [.sample .hi]
  | .tx .lo => [.sample .lo]
  | .pix => [.sample .hi, .sample .lo]
  | _ => []

/-- Before each micro-operation stand the samples that write what it reads. -/
def WritesFirst (p : List MicroOp) : Prop := ∀ k m, p[k]? = some m → ∀ r ∈ m.reads, r ∈ p.take k

/-- For a given list it is enough to look at its positions. -/
theorem WritesFirst.of_positions {p : List MicroOp}
    (h : ∀ k : Fin p.length, ∀ r ∈ MicroOp.reads p[k], r ∈ p.take k) : WritesFirst p := by
  intro k m hm
  obtain ⟨hk, rfl⟩ := List.getElem?_eq_some_iff.mp hm
  exact h ⟨k, hk⟩

theorem WritesFirst.append {p q : List MicroOp} (hp : WritesFirst p) (hq : WritesFirst q) : WritesFirst (p ++ q) := by
  intro k m hm r hr
  rw [List.take_append, List.mem_append]
  by_cases hk : k < p.length
  · exact .inl (hp k m (by rwa [List.getElem?_append_left hk] at hm) r hr)
  · exact .inr (hq _ m (by rwa [List.getElem?_append_right (by omega)] at hm) r hr)

theorem WritesFirst.repeated {p : List MicroOp} (hp : WritesFirst p) (n : Nat) : WritesFirst (repeated p n) := by
  induction n with
  | zero => exact nofun
  | succ n ih => exact hp.append ih

/-- Every micro-program writes `hi` and `lo` before it reads them: a drain because each of its parts does. -/
theorem mu_writesFirst (n : Nat) (c : Instr) : WritesFirst (mu n c) := by
  have hrdb : WritesFirst muRdb := .of_positions (by decide)
  have hrpr : WritesFirst muRpr := .of_positions (by decide)
  have hend : WritesFirst [.ackFv, .clrRdy] := .of_positions (by decide)
  have hpxd : WritesFirst muPxd := .of_positions (by decide)
  have hpxs : WritesFirst muPxs := .of_positions (by decide)
  have htxsm : WritesFirst muTxsm := .of_positions (by decide)
  have htxem : WritesFirst muTxem := .of_positions (by decide)
  cases c with
  | rdb => exact hrdb
  | rpr => exact hrpr
  | pxd => exact hpxd
  | pxs => exact hpxs
  | txb b => exact .of_positions (by simp [mu, muTxb, MicroOp.reads])
  | txsm => exact htxsm
  | txem => exact htxem
  | drd => exact hrpr.append ((hpxd.repeated n).append hend)
  | drs => exact hrpr.append (htxsm.append ((hpxs.repeated n).append (htxem.append hend)))

/-- Settles O13, from `mu_writesFirst`. -/
theorem bytesAreWrittenBeforeRead : Obligations.BytesAreWrittenBeforeRead := fun n k c =>
  have h := mu_writesFirst n c k
  ⟨fun hm => h _ hm _ (by simp [MicroOp.reads]), fun hm => h _ hm _ (by simp [MicroOp.reads]),
    fun hm => ⟨h _ hm _ (by simp [MicroOp.reads]), h _ hm _ (by simp [MicroOp.reads])⟩⟩

/-! ### The sequencer position (R24) -/

/-- No micro-program is empty (R24). -/
theorem muLength_pos (n : Nat) (c : Instr) : 0 < muLength n c := by
  cases c <;> simp [muLength]

/-- A micro-operation stands below the length of its micro-program. -/
theorem upc_lt_of_getElem? {n k : Nat} {c : Instr} {m : MicroOp} (h : (mu n c)[k]? = some m) : k < muLength n c :=
  mu_length n c ▸ (List.getElem?_eq_some_iff.mp h).1

theorem State.Positioned.congr {s t : State} (hs : s.Positioned) (hcmd : t.cmd = s.cmd) (hupc : t.upc = s.upc)
    (hparams : t.params = s.params) : t.Positioned := by
  unfold State.Positioned at *
  rwa [hcmd, hupc, hparams]

theorem State.positioned_of_idle {s : State} (hc : s.cmd = none) (hu : s.upc = 0) : s.Positioned := by
  simp [State.Positioned, hc, hu]

theorem State.positioned_of_busy {s : State} {c : Instr} (hc : s.cmd = some c)
    (hu : s.upc < muLength s.params.pixelCount c) : s.Positioned := by
  simp [State.Positioned, hc, hu]

/-- Every step keeps the sequencer position legal (R24). -/
theorem step_keeps_positioned {s t : State} (hs : s.Positioned) (h : step s = .next t) : t.Positioned := by
  cases step_block h
  case same h => exact hs.congr h.cmd h.upc h.params
  case reset _ ht => exact ht ▸ State.positioned_of_idle rfl rfl
  case illegal w _ _ _ _ _ ht => exact hs.congr (by simp [ht]) (by simp [ht]) (by simp [ht])
  case accepted w i _ _ hc _ _ ht =>
    obtain ⟨_, _, hstart⟩ | ⟨_, hstart⟩ := (s.afterChoice.takeWord w).start_cases i (isDrain i)
    · exact hs.congr (by simp [ht, hstart]) (by simp [ht, hstart]) (by simp [ht])
    · exact ht ▸ hstart ▸ State.positioned_of_busy rfl (muLength_pos _ i)
  case performed c m _ _ hc hp _ ht =>
    have hlt := upc_lt_of_getElem? hp
    by_cases hlast : s.upc + 1 = muLength s.params.pixelCount c
    · rw [State.advance_last (by simpa using hlast)] at ht
      exact ht ▸ State.positioned_of_idle rfl rfl
    · rw [State.advance_more (by simpa using hlast)] at ht
      exact State.positioned_of_busy (c := c) (by simp [ht, hc]) (by simp [ht]; omega)

/-! ### A faulted block is idle (R202) -/

theorem step_keeps_faultedIdle {s t : State} (hs : s.err ≠ .none → s.cmd = none) (h : step s = .next t) :
    t.err ≠ .none → t.cmd = none := by
  cases step_block h
  case same h => rwa [h.err, h.cmd]
  case reset _ ht => simp [ht]
  case illegal w _ _ hc _ _ ht => simp [ht, hc]
  case accepted w i _ he hc _ _ ht =>
    obtain ⟨_, _, hstart⟩ | ⟨_, hstart⟩ := (s.afterChoice.takeWord w).start_cases i (isDrain i)
    · simp [ht, hstart, hc]
    · simp [ht, hstart, he]
  case performed c m _ he _ _ _ ht => simp [ht, he]

/-! ### The byte registers (R23) -/

/-- Only `SAMPLE(HI)` writes `hi` (R30). -/
theorem MicroOp.perform_hi (m : MicroOp) (s : State) :
    (m.perform s).hi = if m = .sample .hi then some s.busSample.1 else s.hi := by
  cases m
  case sample dst => cases dst <;> simp [MicroOp.perform, State.sampleBus, State.store]
  all_goals simp [MicroOp.perform]

/-- Only `SAMPLE(LO)` writes `lo` (R30). -/
theorem MicroOp.perform_lo (m : MicroOp) (s : State) :
    (m.perform s).lo = if m = .sample .lo then some s.busSample.1 else s.lo := by
  cases m
  case sample dst => cases dst <;> simp [MicroOp.perform, State.sampleBus, State.store]
  all_goals simp [MicroOp.perform]

/-- The registers that the micro-operations `p` write hold values. -/
def State.HoldsBytesOf (p : List MicroOp) (s : State) : Prop :=
  (.sample .hi ∈ p → s.hi.isSome) ∧ (.sample .lo ∈ p → s.lo.isSome)

theorem State.HoldsBytesOf.perform {p : List MicroOp} {s : State} (hs : s.HoldsBytesOf p) (m : MicroOp) :
    (m.perform s).HoldsBytesOf (p ++ [m]) := by
  obtain ⟨hhi, hlo⟩ := hs
  constructor
  · rw [MicroOp.perform_hi, List.mem_append, List.mem_singleton]
    split_ifs with hm
    · simp
    · exact fun h => hhi (h.resolve_right (Ne.symm hm))
  · rw [MicroOp.perform_lo, List.mem_append, List.mem_singleton]
    split_ifs with hm
    · simp
    · exact fun h => hlo (h.resolve_right (Ne.symm hm))

/-- An idle block has performed nothing. -/
theorem State.bytesHeld_of_idle {s : State} (hc : s.cmd = none) : s.BytesHeld := by
  simp [State.BytesHeld, State.performed_idle hc]

theorem State.performed_congr {s t : State} (hcmd : t.cmd = s.cmd) (hupc : t.upc = s.upc)
    (hparams : t.params = s.params) : t.performed = s.performed := by
  simp only [State.performed, hcmd, hupc, hparams]

/-- Every step keeps the written byte registers holding values (R23). -/
theorem step_keeps_bytesHeld {s t : State} (hs : s.BytesHeld) (h : step s = .next t) : t.BytesHeld := by
  cases step_block h
  case same h =>
    rwa [State.BytesHeld, State.performed_congr h.cmd h.upc h.params, h.hi, h.lo]
  case reset _ ht => exact ht ▸ State.bytesHeld_of_idle rfl
  case illegal w _ _ hc _ _ ht => exact State.bytesHeld_of_idle (by simp [ht, hc])
  case accepted w i _ _ hc _ _ ht =>
    obtain ⟨_, _, hstart⟩ | ⟨_, hstart⟩ := (s.afterChoice.takeWord w).start_cases i (isDrain i)
    · exact State.bytesHeld_of_idle (by simp [ht, hstart, hc])
    · simp [ht, hstart, State.BytesHeld, State.performed]
  case performed c m _ _ hc hp _ ht =>
    by_cases hlast : s.upc + 1 = muLength s.params.pixelCount c
    · rw [State.advance_last (by simpa using hlast)] at ht
      exact State.bytesHeld_of_idle (by simp [ht])
    · rw [State.advance_more (by simpa using hlast)] at ht
      have hchosen : s.afterChoice.HoldsBytesOf s.performed := by
        simpa [State.HoldsBytesOf, State.BytesHeld] using hs
      have := hchosen.perform m
      rw [State.performed_snoc hc hp] at this
      subst t
      simpa [State.HoldsBytesOf, State.BytesHeld, State.performed, hc] using this

/-! ### The counters (R27, R28) -/

/-- Every step keeps the counters below 2^W, and the missed-frame counter 0 without the option (R27, R28). -/
theorem step_keeps_countersFit {s t : State} (hs : s.CountersFit) (h : step s = .next t) : t.CountersFit := by
  obtain ⟨hframe, hmissed, hoff⟩ := hs
  rw [State.CountersFit, step_params h]
  refine ⟨?_, ?_⟩
  · by_cases hne : t.frameCount = s.frameCount
    · rwa [hne]
    · obtain ⟨_, hzero⟩ | ⟨_, _, hbump⟩ := onlyDrainEndCountsFrames s t h hne
      · rw [hzero]; exact Nat.two_pow_pos _
      · rw [hbump]; exact Nat.mod_lt _ (Nat.two_pow_pos _)
  · obtain hkeep | ⟨_, hzero⟩ | ⟨hcount, _⟩ := step_missedCount h
    · rw [hkeep]; exact ⟨hmissed, hoff⟩
    · rw [hzero]; exact ⟨Nat.two_pow_pos _, fun _ => rfl⟩
    · rw [hcount, State.countMissed_missedCount, Bool.and_true]
      split_ifs with hon
      · exact ⟨bump_lt _ _, fun hoff => absurd (hon.symm.trans hoff) nofun⟩
      · exact ⟨hmissed, hoff⟩

/-! ### A drain in progress has READY = 1 (R25, R86) -/

theorem State.drainReady_of_idle {s : State} (hc : s.cmd = none) : s.DrainReady := by
  simp [State.DrainReady, hc]

/-- Every step keeps READY at 1 while a drain is in progress (R25, R86). -/
theorem step_keeps_drainReady {s t : State} (hs : s.DrainReady) (h : step s = .next t) : t.DrainReady := by
  cases step_next h
  case reset _ ht => exact ht ▸ State.drainReady_of_idle rfl
  case interrupt _ _ ht => simp [ht, State.DrainReady]
  case accepted w i _ _ hc _ _ ht =>
    obtain ⟨_, _, hstart⟩ | ⟨hready, hstart⟩ := (s.afterChoice.takeWord w).start_cases i (isDrain i)
    · exact State.drainReady_of_idle (by simp [ht, hstart, hc])
    · simpa [ht, hstart, State.DrainReady] using hready
  case performed c m _ _ hc hp _ ht =>
    by_cases hlast : s.upc + 1 = muLength s.params.pixelCount c
    · rw [State.advance_last (by simpa using hlast)] at ht
      exact State.drainReady_of_idle (by simp [ht])
    · rw [State.advance_more (by simpa using hlast)] at ht
      have hclr : m ≠ .clrRdy := fun hm => hlast (clrRdy_at_drain_end (hm ▸ hp)).2
      simpa [ht, State.DrainReady, MicroOp.perform_ready_of_ne hclr] using hs
  all_goals subst t; simpa [State.DrainReady] using hs

/-! ### The invariant -/

/-- Settles O48: every clause at the values of R250. -/
theorem resetMeetsTheInvariant : Obligations.ResetMeetsTheInvariant where
  params := rfl
  positioned := rfl
  faultedIdle _ := rfl
  lines := rfl
  bytes := State.bytesHeld_of_idle rfl
  counters := ⟨Nat.two_pow_pos _, Nat.two_pow_pos _, fun _ => rfl⟩
  drainReady := State.drainReady_of_idle rfl

/-- Settles O49: each clause has its step lemma. -/
theorem stepKeepsTheInvariant : Obligations.StepKeepsTheInvariant := fun _ _ hs h => {
  params := step_params h ▸ hs.params
  positioned := step_keeps_positioned hs.positioned h
  faultedIdle := step_keeps_faultedIdle hs.faultedIdle h
  lines := step_keeps_linesDriven hs.lines h
  bytes := step_keeps_bytesHeld hs.bytes h
  counters := step_keeps_countersFit hs.counters h
  drainReady := step_keeps_drainReady hs.drainReady h }

end Sys2Proof.Machine
end

section
/-! SUPPORT. The traces of commands: the trace of a micro-program and the bytes it has seen, the trace of a drain, and what a
command in progress has left in the history (spec/10_state.md R30, R31, spec/30_encoding.md R89, spec/41_drain.md R147). -/
namespace Sys2Proof.Machine

/-! ### One micro-operation of a trace (R89) -/

/-- The trace events of a micro-operation other than a sample, with `hi` and `lo` in the byte registers (R30). -/
def MicroOp.traced (hi lo : Option Byte) : MicroOp → List Event
  | .rclk l => [.rclk l]
  | .rrst a => [.rrst a]
  | .sample _ => []
  | .tx (.imm b) => [.tx b]
  | .tx .hi => hi.toList.map .tx
  | .tx .lo => lo.toList.map .tx
  | .pix => (hi.bind fun h => lo.map fun l => Event.pix (h ++ l)).toList
  | .ackFv => []
  | .clrRdy => []

/-- A micro-operation other than a sample only adds its trace events. -/
theorem TraceState.next_of_not_sample {m : MicroOp} (hm : isSample m = false) (t : TraceState) :
    t.next m = { t with events := t.events ++ m.traced t.hi t.lo } := by
  obtain ⟨events, hi, lo, bytes⟩ := t
  cases m
  case sample => cases hm
  case tx src =>
    cases src
    case imm => rfl
    case hi => cases hi <;> simp [TraceState.next, TraceState.add, MicroOp.traced]
    case lo => cases lo <;> simp [TraceState.next, TraceState.add, MicroOp.traced]
  case pix => cases hi <;> cases lo <;> simp [TraceState.next, TraceState.add, MicroOp.traced]
  all_goals simp [TraceState.next, TraceState.add, MicroOp.traced]

/-- A sample takes the next byte. -/
theorem TraceState.next_sample {t : TraceState} {v : Byte} {rest : List Byte} (hb : t.bytes = v :: rest) (dst : Dst) :
    t.next (.sample dst) = {
      events := t.events ++ [.sample v], hi := if dst = .hi then some v else t.hi
      lo := if dst = .lo then some v else t.lo, bytes := rest } := by
  cases dst <;> simp [TraceState.next, TraceState.add, hb]

/-- A sample with no byte left adds nothing. -/
theorem TraceState.next_sample_nil {t : TraceState} (hb : t.bytes = []) (dst : Dst) : t.next (.sample dst) = t := by
  simp [TraceState.next, hb]

theorem isSample_iff {m : MicroOp} : isSample m = true ↔ ∃ dst, m = .sample dst := by
  cases m <;> simp [isSample]

/-! ### The trace of a micro-program -/

/-- The bytes left are those that no sample has taken. -/
theorem traceEnd_bytes (p : List MicroOp) (bytes : List Byte) :
    (traceEnd p bytes).bytes = bytes.drop (p.countP isSample) := by
  induction p using List.reverseRecOn with
  | nil => rfl
  | append_singleton p m ih =>
    rw [traceEnd_snoc, List.countP_append, List.countP_singleton]
    by_cases hm : isSample m = true
    · obtain ⟨dst, rfl⟩ := isSample_iff.mp hm
      rw [if_pos hm, ← List.drop_drop, ← ih]
      rcases hb : (traceEnd p bytes).bytes with _ | ⟨v, rest⟩
      · rw [TraceState.next_sample_nil hb, hb]; rfl
      · rw [TraceState.next_sample hb]; rfl
    · rw [TraceState.next_of_not_sample (by simpa using hm), if_neg hm]
      exact ih

/-- Bytes that no sample takes make no difference. -/
theorem traceEnd_more {p : List MicroOp} {bytes : List Byte} (h : p.countP isSample ≤ bytes.length) (more : List Byte) :
    traceEnd p (bytes ++ more) = { traceEnd p bytes with bytes := (traceEnd p bytes).bytes ++ more } := by
  induction p using List.reverseRecOn with
  | nil => rfl
  | append_singleton p m ih =>
    rw [List.countP_append, List.countP_singleton] at h
    rw [traceEnd_snoc, traceEnd_snoc, ih (by omega)]
    by_cases hm : isSample m = true
    · obtain ⟨dst, rfl⟩ := isSample_iff.mp hm
      rw [if_pos hm] at h
      obtain ⟨v, rest, hb⟩ : ∃ v rest, (traceEnd p bytes).bytes = v :: rest :=
        List.exists_cons_of_length_pos (by rw [traceEnd_bytes, List.length_drop]; omega)
      rw [TraceState.next_sample hb, TraceState.next_sample (rest := rest ++ more) (v := v) (by simp [hb])]
    · rw [Bool.not_eq_true] at hm
      rw [TraceState.next_of_not_sample hm, TraceState.next_of_not_sample hm]

/-- A byte register that the micro-operations write holds a value, where every sample has seen a byte. -/
theorem traceEnd_holds {p : List MicroOp} {bytes : List Byte} (h : p.countP isSample ≤ bytes.length) :
    (.sample .hi ∈ p → (traceEnd p bytes).hi.isSome) ∧ (.sample .lo ∈ p → (traceEnd p bytes).lo.isSome) := by
  induction p using List.reverseRecOn with
  | nil => exact ⟨nofun, nofun⟩
  | append_singleton p m ih =>
    rw [List.countP_append, List.countP_singleton] at h
    obtain ⟨hhi, hlo⟩ := ih (by omega)
    rw [traceEnd_snoc, List.mem_append, List.mem_append, List.mem_singleton, List.mem_singleton]
    by_cases hm : isSample m = true
    · obtain ⟨dst, rfl⟩ := isSample_iff.mp hm
      rw [if_pos hm] at h
      obtain ⟨v, rest, hb⟩ : ∃ v rest, (traceEnd p bytes).bytes = v :: rest :=
        List.exists_cons_of_length_pos (by rw [traceEnd_bytes, List.length_drop]; omega)
      rw [TraceState.next_sample hb]
      cases dst <;> simp_all
    · rw [Bool.not_eq_true] at hm
      rw [TraceState.next_of_not_sample hm]
      exact ⟨fun h => hhi (h.resolve_right (by rintro rfl; cases hm)),
        fun h => hlo (h.resolve_right (by rintro rfl; cases hm))⟩

/-! ### The history since the acceptance (R33) -/

theorem sinceAccept_accept (h : List Event) (w : Word) : sinceAccept (h ++ [.accept w]) = [] := by
  rw [sinceAccept_snoc]

theorem sinceAccept_snoc_of_ne {e : Event} (he : ∀ w, e ≠ .accept w) (h : List Event) :
    sinceAccept (h ++ [e]) = sinceAccept h ++ [e] := by
  rw [sinceAccept_snoc]
  cases e
  case accept w => exact absurd rfl (he w)
  all_goals rfl

/-- The micro-operations `p` have left their trace in the history since the last `Accept`, one byte to a sample, and their
bytes in `hi` and `lo`. -/
structure State.TracedBy (p : List MicroOp) (s : State) : Prop where
  counted : p.countP isSample = s.sampled.length
  events : traceEvents (sinceAccept s.hist) = traceOf p s.sampled
  hi : ∀ v, (traceEnd p s.sampled).hi = some v → s.hi = some v
  lo : ∀ v, (traceEnd p s.sampled).lo = some v → s.lo = some v

theorem State.traced_iff {s : State} : s.Traced ↔ (s.cmd ≠ none → s.TracedBy s.performed) :=
  ⟨fun h hc => ⟨h.counted hc, h.events hc, h.hi hc, h.lo hc⟩,
    fun h => ⟨fun hc => (h hc).counted, fun hc => (h hc).events, fun hc => (h hc).hi, fun hc => (h hc).lo⟩⟩

/-- Only the history and the byte registers matter. -/
theorem State.TracedBy.congr {p : List MicroOp} {s t : State} (hs : s.TracedBy p) (hhist : t.hist = s.hist)
    (hhi : t.hi = s.hi) (hlo : t.lo = s.lo) : t.TracedBy p := by
  obtain ⟨hcount, hevents, hi, lo⟩ := hs
  constructor <;> simpa only [State.sampled, hhist, hhi, hlo]

/-- After an `Accept` nothing has been performed. -/
theorem State.tracedBy_nil {s : State} (h : sinceAccept s.hist = []) : s.TracedBy [] := by
  constructor <;> simp [State.sampled, h, sampleStream, traceEvents, traceOf, traceEnd]

/-- What the other agents add to the history is no part of the trace. -/
theorem State.SameBlock.tracedBy {p : List MicroOp} {s t : State} (h : s.SameBlock t) (hs : s.TracedBy p) :
    t.TracedBy p := by
  have hquiet : ∀ e, (∀ w, e ≠ .accept w) → sampleStream [e] = [] → traceEvents [e] = [] → t.hist = s.hist ++ [e] →
      t.TracedBy p := by
    intro e ha hsample htrace hh
    obtain ⟨hcount, hevents, hi, lo⟩ := hs
    constructor <;>
      simpa [State.sampled, hh, h.hi, h.lo, sinceAccept_snoc_of_ne ha, hsample, htrace]
  obtain hh | hh | ⟨r, hh⟩ := h.hist
  · exact hs.congr hh h.hi h.lo
  · exact hquiet .fvEdge nofun rfl rfl hh
  · exact hquiet (.isr r) nofun rfl rfl hh

theorem MicroOp.sinceAccept_perform (m : MicroOp) (s : State) :
    sinceAccept (m.perform s).hist = sinceAccept s.hist ++ [m.event s] := by
  rw [MicroOp.perform_hist, sinceAccept_snoc_of_ne (m.event_ne_accept s)]

/-- A micro-operation adds the byte it samples, if it samples one. -/
theorem MicroOp.perform_sampled (m : MicroOp) (s : State) :
    (m.perform s).sampled = s.sampled ++ sampleStream [m.event s] := by
  rw [State.sampled, m.sinceAccept_perform, sampleStream_append, State.sampled]

/-- No other micro-operation than a sample samples a byte. -/
theorem MicroOp.perform_sampled_of_not_sample {m : MicroOp} (hm : isSample m = false) (s : State) :
    (m.perform s).sampled = s.sampled := by
  rw [m.perform_sampled]
  cases m
  case sample => cases hm
  all_goals exact List.append_nil _

/-- The event of a micro-operation other than a sample, as its trace has it where the registers it reads hold values. -/
theorem MicroOp.traceEvents_event {s : State} {m : MicroOp} {hi lo : Option Byte} (hm : isSample m = false)
    (hhi : .sample .hi ∈ m.reads → ∃ v, hi = some v ∧ s.hi = some v)
    (hlo : .sample .lo ∈ m.reads → ∃ v, lo = some v ∧ s.lo = some v) :
    traceEvents [m.event s] = m.traced hi lo := by
  cases m
  case sample => cases hm
  case tx src =>
    cases src
    case imm b => rfl
    case hi =>
      obtain ⟨v, rfl, hs⟩ := hhi (by simp [MicroOp.reads])
      simp [MicroOp.event, State.source, hs, MicroOp.traced, traceEvents, isTraceEvent, isOutput]
    case lo =>
      obtain ⟨v, rfl, hs⟩ := hlo (by simp [MicroOp.reads])
      simp [MicroOp.event, State.source, hs, MicroOp.traced, traceEvents, isTraceEvent, isOutput]
  case pix =>
    obtain ⟨v, rfl, hv⟩ := hhi (by simp [MicroOp.reads])
    obtain ⟨u, rfl, hu⟩ := hlo (by simp [MicroOp.reads])
    simp [MicroOp.event, hv, hu, MicroOp.traced, traceEvents, isTraceEvent, isOutput, pixelOf]
  all_goals rfl

/-- A performed sample continues the trace with the byte it sees. -/
theorem State.TracedBy.perform_sample {p : List MicroOp} {s : State} (hs : s.TracedBy p) (dst : Dst) :
    ((MicroOp.sample dst).perform s).TracedBy (p ++ [.sample dst]) := by
  obtain ⟨hcount, hevents, hhi, hlo⟩ := hs
  have hsampled : ((MicroOp.sample dst).perform s).sampled = s.sampled ++ [s.busSample.1] :=
    MicroOp.perform_sampled _ s
  have hend : traceEnd (p ++ [.sample dst]) (s.sampled ++ [s.busSample.1]) = {
      events := traceOf p s.sampled ++ [.sample s.busSample.1]
      hi := if dst = .hi then some s.busSample.1 else (traceEnd p s.sampled).hi
      lo := if dst = .lo then some s.busSample.1 else (traceEnd p s.sampled).lo
      bytes := [] } := by
    rw [traceEnd_snoc, traceEnd_more hcount.le, traceEnd_bytes, hcount, List.drop_length, List.nil_append,
      TraceState.next_sample rfl]
    rfl
  constructor
  · rw [hsampled, List.countP_append, List.length_append, hcount]; rfl
  · have hof : traceOf (p ++ [.sample dst]) _ = _ := congrArg TraceState.events hend
    rw [MicroOp.sinceAccept_perform, traceEvents_append, hevents, hsampled, hof]; rfl
  · rw [hsampled, hend, MicroOp.perform_hi]
    by_cases hd : dst = .hi
    · simp [hd]
    · simpa [hd] using hhi
  · rw [hsampled, hend, MicroOp.perform_lo]
    by_cases hd : dst = .lo
    · simp [hd]
    · simpa [hd] using hlo

/-- Any other performed micro-operation, whose reads stand before it, continues the trace with its event. -/
theorem State.TracedBy.perform_other {p : List MicroOp} {s : State} {m : MicroOp} (hs : s.TracedBy p)
    (hm : isSample m = false) (hreads : ∀ r ∈ m.reads, r ∈ p) : (m.perform s).TracedBy (p ++ [m]) := by
  obtain ⟨hcount, hevents, hhi, hlo⟩ := hs
  obtain ⟨holdshi, holdslo⟩ := traceEnd_holds hcount.le
  have hsampled := MicroOp.perform_sampled_of_not_sample hm s
  have hevent : traceEvents [m.event s] = m.traced (traceEnd p s.sampled).hi (traceEnd p s.sampled).lo := by
    refine MicroOp.traceEvents_event hm (fun hr => ?_) (fun hr => ?_)
    · obtain ⟨v, hv⟩ := Option.isSome_iff_exists.mp (holdshi (hreads _ hr))
      exact ⟨v, hv, hhi v hv⟩
    · obtain ⟨v, hv⟩ := Option.isSome_iff_exists.mp (holdslo (hreads _ hr))
      exact ⟨v, hv, hlo v hv⟩
  have hend := traceEnd_snoc p m s.sampled
  rw [TraceState.next_of_not_sample hm] at hend
  constructor
  · rw [hsampled, List.countP_append, List.countP_singleton, if_neg (by simp [hm]), hcount]; rfl
  · rw [MicroOp.sinceAccept_perform, traceEvents_append, hevents, hsampled, traceOf, traceOf, hend, hevent]
  · rw [hsampled, hend, MicroOp.perform_hi, if_neg (by rintro rfl; cases hm)]
    exact hhi
  · rw [hsampled, hend, MicroOp.perform_lo, if_neg (by rintro rfl; cases hm)]
    exact hlo

/-- The micro-operation at the sequencer position continues the trace (R23, R31). -/
theorem State.TracedBy.perform_next {c : Instr} {s : State} {m : MicroOp} (hs : s.TracedBy s.performed)
    (hc : s.cmd = some c) (hp : (mu s.params.pixelCount c)[s.upc]? = some m) :
    (m.perform s).TracedBy (s.performed ++ [m]) := by
  by_cases hm : isSample m = true
  · obtain ⟨dst, rfl⟩ := isSample_iff.mp hm
    exact hs.perform_sample dst
  · refine hs.perform_other (by simpa using hm) ?_
    rw [State.performed_busy hc]
    exact mu_writesFirst _ c _ m hp

/-- The step that performs it, with the sequencer's advance, leaves the trace continued (R31). -/
theorem State.TracedBy.performed_step {c : Instr} {s t : State} {m : MicroOp} {n : Nat} (hs : s.TracedBy s.performed)
    (hc : s.cmd = some c) (hp : (mu s.params.pixelCount c)[s.upc]? = some m)
    (ht : t = (m.perform s.afterChoice).advance n) : t.TracedBy (s.performed ++ [m]) := by
  have hchosen : s.afterChoice.performed = s.performed := State.performed_congr (by simp) (by simp) (by simp)
  have hsa : s.afterChoice.TracedBy s.afterChoice.performed := hchosen ▸ hs.congr (by simp) (by simp) (by simp)
  have hm := hsa.perform_next (c := c) (m := m) (by simpa using hc) (by simpa using hp)
  rw [hchosen] at hm
  exact hm.congr (by simp [ht]) (by simp [ht]) (by simp [ht])

theorem State.traced_of_idle {s : State} (hc : s.cmd = none) : s.Traced :=
  State.traced_iff.mpr fun h => absurd hc h

/-- Every step keeps the trace of the command in progress (R147). -/
theorem step_keeps_traced {s t : State} (hs : s.Traced) (h : step s = .next t) : t.Traced := by
  cases step_block h
  case same h =>
    refine State.traced_iff.mpr fun hc => ?_
    rw [State.performed_congr h.cmd h.upc h.params]
    exact h.tracedBy (State.traced_iff.mp hs (h.cmd ▸ hc))
  case reset _ ht => exact ht ▸ State.traced_of_idle rfl
  case illegal w _ _ hc _ _ ht => exact State.traced_of_idle (by simp [ht, hc])
  case accepted w i _ _ hc _ _ ht =>
    obtain ⟨_, _, hstart⟩ | ⟨_, hstart⟩ := (s.afterChoice.takeWord w).start_cases i (isDrain i)
    · exact State.traced_of_idle (by simp [ht, hstart, hc])
    · refine State.traced_iff.mpr fun _ => ?_
      have hnil : t.performed = [] := by simp [ht, hstart, State.performed]
      rw [hnil]
      exact State.tracedBy_nil (by simp [ht, hstart, sinceAccept_accept])
  case performed c m _ _ hc hp _ ht =>
    by_cases hlast : s.upc + 1 = muLength s.params.pixelCount c
    · rw [State.advance_last (by simpa using hlast)] at ht
      exact State.traced_of_idle (by simp [ht])
    · have hstep := (State.traced_iff.mp hs (by simp [hc])).performed_step hc hp ht
      rw [State.performed_snoc hc hp] at hstep
      rw [State.advance_more (by simpa using hlast)] at ht
      have hperformed : t.performed = (mu s.params.pixelCount c).take (s.upc + 1) := by
        simp [ht, State.performed, hc]
      exact State.traced_iff.mpr fun _ => hperformed ▸ hstep

/-- Settles O53: at reset no command is in progress, and `step_keeps_traced` is the step. -/
theorem commandsLeaveTheirTrace : Obligations.CommandsLeaveTheirTrace :=
  ⟨State.traced_of_idle rfl, fun _ _ => step_keeps_traced⟩

end Sys2Proof.Machine
end

section
/-! SUPPORT. The traces of the drains: what a drain has emitted when it retires, and the composed commands against their
parts (spec/30_encoding.md R89, spec/41_drain.md R147, spec/42_framer.md R177). -/
namespace Sys2Proof.Machine

/-! ### The events of pixels -/

/-- The events of one pixel to the display sink (R130). -/
def displayPixel (h l : Byte) : List Event := readEvents h l ++ [.pix (h ++ l)]

/-- The events of one pixel to the serial sink (R131). -/
def serialPixel (h l : Byte) : List Event := readEvents h l ++ [.tx h, .tx l]

theorem displayEvents_flatMap (pixels : List (Byte × Byte)) :
    displayEvents (pixels.flatMap fun p => [p.1, p.2]) = pixels.flatMap fun p => displayPixel p.1 p.2 := by
  induction pixels with
  | nil => rfl
  | cons p pixels ih => exact congrArg (displayPixel p.1 p.2 ++ ·) ih

theorem serialEvents_flatMap (pixels : List (Byte × Byte)) :
    serialEvents (pixels.flatMap fun p => [p.1, p.2]) = pixels.flatMap fun p => serialPixel p.1 p.2 := by
  induction pixels with
  | nil => rfl
  | cons p pixels ih => exact congrArg (serialPixel p.1 p.2 ++ ·) ih

/-- An even number of bytes is that of some pixels. -/
theorem exists_pixels {n : Nat} {bytes : List Byte} (h : bytes.length = 2 * n) :
    ∃ pixels : List (Byte × Byte), pixels.length = n ∧ bytes = pixels.flatMap fun p => [p.1, p.2] := by
  induction n generalizing bytes with
  | zero => exact ⟨[], rfl, by simpa using h⟩
  | succ n ih =>
    match bytes, h with
    | a :: b :: rest, h =>
      obtain ⟨pixels, hlen, hrest⟩ := ih (bytes := rest) (by rw [List.length_cons, List.length_cons] at h; omega)
      exact ⟨(a, b) :: pixels, by simp [hlen], by simp [hrest]⟩

/-! ### The trace of a drain (R140, R145) -/

/-- Copies of a micro-program that leaves the events `f h l` of a pixel leave those of their pixels. -/
theorem foldl_next_repeated {p : List MicroOp} {f : Byte → Byte → List Event}
    (hp : ∀ (t : TraceState) (h l : Byte) (rest : List Byte), t.bytes = h :: l :: rest →
      (p.foldl TraceState.next t).events = t.events ++ f h l ∧ (p.foldl TraceState.next t).bytes = rest)
    {pixels : List (Byte × Byte)} {t : TraceState} (ht : t.bytes = pixels.flatMap fun p => [p.1, p.2]) :
    ((repeated p pixels.length).foldl TraceState.next t).events =
      t.events ++ pixels.flatMap fun p => f p.1 p.2 := by
  induction pixels generalizing t with
  | nil => simp [repeated]
  | cons x pixels ih =>
    obtain ⟨hevents, hbytes⟩ := hp t x.1 x.2 _ ht
    rw [List.length_cons, repeated, List.foldl_append, ih hbytes, hevents, List.flatMap_cons, List.append_assoc]

theorem foldl_next_pxd (t : TraceState) (h l : Byte) (rest : List Byte) (ht : t.bytes = h :: l :: rest) :
    (muPxd.foldl TraceState.next t).events = t.events ++ displayPixel h l ∧
      (muPxd.foldl TraceState.next t).bytes = rest := by
  simp [muPxd, TraceState.next, TraceState.add, ht, displayPixel, readEvents]

theorem foldl_next_pxs (t : TraceState) (h l : Byte) (rest : List Byte) (ht : t.bytes = h :: l :: rest) :
    (muPxs.foldl TraceState.next t).events = t.events ++ serialPixel h l ∧
      (muPxs.foldl TraceState.next t).bytes = rest := by
  simp [muPxs, TraceState.next, TraceState.add, ht, serialPixel, readEvents]

/-- The trace of a DRD: the rewind and the pixels (R140). -/
theorem traceOf_drd (pixels : List (Byte × Byte)) :
    traceOf (muDrd pixels.length) (pixels.flatMap fun p => [p.1, p.2]) =
      rewindEvents ++ pixels.flatMap fun p => displayPixel p.1 p.2 := by
  have hpix := foldl_next_repeated foldl_next_pxd (pixels := pixels)
    (t := { events := rewindEvents, hi := none, lo := none, bytes := pixels.flatMap fun p => [p.1, p.2] }) rfl
  rw [← hpix, traceOf, traceEnd, muDrd, List.foldl_append, List.foldl_append]
  rfl

/-- The trace of a DRS: the rewind and the pixels in their envelope (R145). -/
theorem traceOf_drs (pixels : List (Byte × Byte)) :
    traceOf (muDrs pixels.length) (pixels.flatMap fun p => [p.1, p.2]) =
      rewindEvents ++ [.tx 0x01, .tx 0xFE] ++ (pixels.flatMap fun p => serialPixel p.1 p.2) ++ [.tx 0xFE, .tx 0x01] := by
  have hpix := foldl_next_repeated foldl_next_pxs (pixels := pixels)
    (t := { events := rewindEvents ++ [.tx 0x01, .tx 0xFE], hi := none, lo := none
            bytes := pixels.flatMap fun p => [p.1, p.2] }) rfl
  rw [← hpix, traceOf, traceEnd, muDrs, List.foldl_append, List.foldl_append, List.foldl_append]
  exact List.append_assoc _ [Event.tx 0xFE] [Event.tx 0x01]

/-- Settles O55: each composed trace is written out by `traceOf_drd`, `traceOf_drs` or by definition, and so are those of the
parts. -/
theorem compositeCommandsTraceTheirParts : Obligations.CompositeCommandsTraceTheirParts :=
  ⟨fun _ => rfl, fun _ => rfl, fun _ _ => rfl, traceOf_drs, traceOf_drd⟩

/-! ### What a drain has emitted (R147, R177) -/

theorem streams_displayPixels (pixels : List (Byte × Byte)) :
    pixStream (pixels.flatMap fun p => displayPixel p.1 p.2) = pixelsOf (pixels.flatMap fun p => [p.1, p.2]) ∧
      txStream (pixels.flatMap fun p => displayPixel p.1 p.2) = [] := by
  induction pixels with
  | nil => exact ⟨rfl, rfl⟩
  | cons p pixels ih =>
    obtain ⟨hpix, htx⟩ := ih
    rw [List.flatMap_cons, List.flatMap_cons, pixStream_append, txStream_append, hpix, htx]
    exact ⟨rfl, rfl⟩

theorem streams_serialPixels (pixels : List (Byte × Byte)) :
    txStream (pixels.flatMap fun p => serialPixel p.1 p.2) = (pixels.flatMap fun p => [p.1, p.2]) ∧
      pixStream (pixels.flatMap fun p => serialPixel p.1 p.2) = [] := by
  induction pixels with
  | nil => exact ⟨rfl, rfl⟩
  | cons p pixels ih =>
    obtain ⟨htx, hpix⟩ := ih
    rw [List.flatMap_cons, List.flatMap_cons, pixStream_append, txStream_append, hpix, htx]
    exact ⟨rfl, rfl⟩

theorem drain_samples (n : Nat) : (mu n .drd).countP isSample = 2 * n ∧ (mu n .drs).countP isSample = 2 * n := by
  rw [mu_drd_eq, mu_drs_eq]
  simp only [List.countP_append, repeated_countP]
  refine ⟨?_, ?_⟩
  · show 0 + (2 * n + 0) = 2 * n; omega
  · show 0 + 0 + (2 * n + 0) = 2 * n; omega

/-- A history that a whole DRD has left: its pixels, and no byte transmitted. -/
theorem State.TracedBy.drd {n : Nat} {s : State} (hs : s.TracedBy (mu n .drd)) :
    s.sampled.length = 2 * n ∧ pixStream (sinceAccept s.hist) = pixelsOf s.sampled ∧
      txStream (sinceAccept s.hist) = [] := by
  have hlen := hs.counted.symm.trans (drain_samples n).1
  obtain ⟨pixels, rfl, hbytes⟩ := exists_pixels hlen
  obtain ⟨hpix, htx⟩ := streams_displayPixels pixels
  refine ⟨hlen, ?_, ?_⟩
  · rw [← pixStream_traceEvents, hs.events, hbytes, mu, traceOf_drd, pixStream_append, hpix]; rfl
  · rw [← txStream_traceEvents, hs.events, hbytes, mu, traceOf_drd, txStream_append, htx]; rfl

/-- A history that a whole DRS has left: its envelope, and no pixel forwarded. -/
theorem State.TracedBy.drs {n : Nat} {s : State} (hs : s.TracedBy (mu n .drs)) :
    s.sampled.length = 2 * n ∧ txStream (sinceAccept s.hist) = envelope s.sampled ∧
      pixStream (sinceAccept s.hist) = [] := by
  have hlen := hs.counted.symm.trans (drain_samples n).2
  obtain ⟨pixels, rfl, hbytes⟩ := exists_pixels hlen
  obtain ⟨htx, hpix⟩ := streams_serialPixels pixels
  refine ⟨hlen, ?_, ?_⟩
  · rw [← txStream_traceEvents, hs.events, hbytes, mu, traceOf_drs, txStream_append, txStream_append, htx]; rfl
  · rw [← pixStream_traceEvents, hs.events, hbytes, mu, traceOf_drs, pixStream_append, pixStream_append, hpix]; rfl

/-- A step other than reset that retires a command leaves the trace of its whole micro-program (R31). -/
theorem tracedBy_of_retires {s t : State} {c : Instr} (hs : s.Traced) (hc : s.cmd = some c) (h : step s = .next t)
    (hreset : s.nextMove ≠ .reset) (hidle : t.cmd = none) : t.TracedBy (mu s.params.pixelCount c) := by
  cases step_block h
  case same h => exact absurd (hc.symm.trans (h.cmd.symm.trans hidle)) nofun
  case reset hm _ => exact absurd hm hreset
  case illegal _ _ _ hn _ _ _ => exact absurd (hc.symm.trans hn) nofun
  case accepted _ _ _ _ hn _ _ _ => exact absurd (hc.symm.trans hn) nofun
  case performed d m _ _ hd hp _ ht =>
    obtain rfl : c = d := Option.some.inj (hc.symm.trans hd)
    have hlast : s.upc + 1 = muLength s.params.pixelCount c := by
      by_contra hmore
      rw [State.advance_more (by simpa using hmore)] at ht
      exact absurd hidle (by simp [ht, hc])
    exact State.performed_snoc_last hc hp hlast ▸
      (State.traced_iff.mp hs (by simp [hc])).performed_step hc hp ht

/-- Settles O54: the retired drain has left the trace of its whole micro-program, whose streams are known. -/
theorem retiredDrainsAreWholeFrames : Obligations.RetiredDrainsAreWholeFrames := by
  intro s t c hs hc h hreset hidle
  have hwhole := tracedBy_of_retires hs hc h hreset hidle
  constructor
  · rintro rfl
    exact hwhole.drs
  · rintro rfl
    exact hwhole.drd

end Sys2Proof.Machine
end

section
/-! SUPPORT. The proofs of the statements on acceptance and on every step's answer (spec/30_encoding.md R86,
spec/10_state.md R24, R31, spec/60_exceptions.md R203). -/
namespace Sys2Proof.Machine

/-! ### Acceptance (R86) -/

/-- The turn of an idle, unfaulted block takes the word on CMD. -/
theorem blockMove_accepts {s : State} {w : Word} (hs : s.CanAccept) (hw : s.cmdPort = some w) :
    blockMove s = acceptWord w s := by
  obtain ⟨he, hc⟩ := hs
  simp [blockMove, he, hc, hw]

/-- Settles O5: the block's turn is the acceptance of an idle block and the command's turn of a busy one. -/
theorem stepRunsTheDecodedCommand : Obligations.StepRunsTheDecodedCommand := by
  intro s ms he ha
  have hstep : step s = blockMove { s with agenda := ms } := step_cons ha
  refine ⟨fun w hc hw => ?_, fun c hc => hstep.trans (blockMove_busy he hc)⟩
  have haccept : step s = acceptWord w { s with agenda := ms } := hstep.trans (blockMove_accepts ⟨he, hc⟩ hw)
  rw [haccept, acceptWord]
  refine ⟨fun i hd => ?_, fun hd => ?_⟩
  · rw [hd]; rfl
  · rw [hd]
    exact congrArg _ (State.takeWord_raiseFault w .illegalCmd _)

/-- Settles O6, from O5: a placed word stands on CMD of an idle, unfaulted block whose turn is next. -/
theorem placedWordIsExecutedNext : Obligations.PlacedWordIsExecutedNext := by
  intro s w i hd hw
  have hplaced := (stepRunsTheDecodedCommand (s.withFetchWord 16 w) s.agenda rfl rfl).1 _ rfl rfl
  rw [Nat.mod_eq_of_lt hw] at hplaced
  exact hplaced.1 i hd

/-- Settles O7, from `exec_idle`: the acceptance of a drain faults only where READY is 0. -/
theorem acceptanceStartsTheCommand : Obligations.AcceptanceStartsTheCommand := by
  rintro i s ⟨he, hc⟩ hready
  rw [exec_idle he hc]
  obtain ⟨hdrain, hnot, _⟩ | ⟨_, hstart⟩ := s.start_cases i (isDrain i)
  · exact absurd ((hready (eq_drd_or_drs_of_isDrain hdrain)).symm.trans hnot) nofun
  · rw [hstart]

/-- Settles O8, from `exec_idle`. -/
theorem drainWithoutReadyFaults : Obligations.DrainWithoutReadyFaults := by
  rintro i s hi ⟨he, hc⟩ hready
  have hdrain : isDrain i = true := by obtain rfl | rfl := hi <;> rfl
  rw [exec_idle he hc, hdrain]
  simp [State.start, hready, State.raiseFault, State.emit]

/-! ### Commands that wait (R86, R148, R203) -/

/-- A faulted block answers no command (R203). -/
theorem exec_faulted {s : State} (he : s.err ≠ .none) (i : Instr) : exec i s = .next s := by
  simp [exec_eq_command, command, he]

/-- While another command is in progress a command waits (R148). -/
theorem exec_waits {s : State} {d i : Instr} (hc : s.cmd = some d) (hne : d ≠ i) : exec i s = .next s := by
  simp [exec_eq_command, command, hc, hne]

/-- Settles O9: only an acceptance, which needs an idle block, takes a word, and a word is issued only where none waits. -/
theorem busyBlockTakesNoCommand : Obligations.BusyBlockTakesNoCommand := by
  refine ⟨fun i d s => exec_waits, fun s t d w hc hw h => ?_⟩
  cases step_next h
  case illegal _ _ _ hn _ _ _ => exact absurd (hc.symm.trans hn) nofun
  case accepted _ _ _ _ hn _ _ _ => exact absurd (hc.symm.trans hn) nofun
  case issue _ _ hn _ => exact absurd (hw.symm.trans hn) nofun
  all_goals subst t; simp [hw]

/-- Settles O42: a faulted block's turn changes nothing, and no other agent writes `err`. -/
theorem faultsAreSticky : Obligations.FaultsAreSticky := by
  refine fun s he => ⟨exec_faulted he, blockMove_disabled (.inl he), by simp [State.cmdReady, he], fun t h hreset => ?_⟩
  cases step_block h
  case same hs => exact hs.err
  case reset hm _ => exact absurd hm hreset
  all_goals exact absurd ‹s.err = .none› he

/-! ### What a step can answer (R24) -/

/-- At a legal position stands a micro-operation. -/
theorem State.Positioned.getElem? {s : State} {c : Instr} (hs : s.Positioned) (hc : s.cmd = some c) :
    ∃ m, (mu s.params.pixelCount c)[s.upc]? = some m := by
  have hlt : s.upc < muLength s.params.pixelCount c := by simpa [State.Positioned, hc] using hs
  exact ⟨_, List.getElem?_eq_getElem (by rwa [mu_length])⟩

/-- A command answers a next state, but at an illegal sequencer position. -/
theorem exec_answers (i : Instr) (s : State) :
    (∃ t, exec i s = .next t) ∨ (¬s.Positioned ∧ exec i s = .fault .noMicroOp) := by
  by_cases he : s.err = .none
  · rcases hc : s.cmd with _ | d
    · exact .inl ⟨_, exec_idle he hc⟩
    · by_cases hd : d = i
      · subst hd
        rcases hm : (mu s.params.pixelCount d)[s.upc]? with _ | m
        · refine .inr ⟨fun hs => ?_, by simp [exec_busy he hc, blockStep, hm]⟩
          obtain ⟨m, hsome⟩ := hs.getElem? hc
          exact absurd (hm.symm.trans hsome) nofun
        · rcases hen : m.enabled s with _ | _
          · exact .inl ⟨_, exec_hold ⟨he, hc, rfl⟩ hm hen⟩
          · exact .inl ⟨_, exec_at ⟨he, hc, rfl⟩ hm hen⟩
      · exact .inl ⟨_, exec_waits hc hd⟩
  · exact .inl ⟨_, exec_faulted he i⟩

/-- The block's turn answers a next state, but at an illegal sequencer position. -/
theorem blockMove_answers (s : State) :
    (∃ t, blockMove s = .next t) ∨ (¬s.Positioned ∧ blockMove s = .fault .noMicroOp) := by
  by_cases he : s.err = .none
  · rcases hc : s.cmd with _ | c
    · rcases hw : s.cmdPort with _ | w
      · exact .inl ⟨s, blockMove_disabled (.inr ⟨hc, hw⟩)⟩
      · rw [blockMove_accepts ⟨he, hc⟩ hw, acceptWord]
        rcases decode w with _ | i
        · exact .inl ⟨_, rfl⟩
        · exact .inl ⟨_, exec_idle he hc⟩
    · rw [blockMove_busy he hc]
      exact exec_answers c s
  · exact .inl ⟨s, blockMove_disabled (.inl he)⟩

/-- Every step answers a next state, but at an illegal sequencer position. -/
theorem step_answers (s : State) :
    (∃ t, step s = .next t) ∨ (¬s.Positioned ∧ step s = .fault .noMicroOp) := by
  rw [step_eq]
  cases s.nextMove
  case block =>
    refine (blockMove_answers s.afterChoice).imp_right fun ⟨hpos, hx⟩ => ⟨fun hs => hpos ?_, hx⟩
    exact hs.congr (by simp) (by simp) (by simp)
  all_goals exact .inl ⟨_, rfl⟩

/-- Settles O46, from `step_answers`. -/
theorem legalPositionNeverStops : Obligations.LegalPositionNeverStops := by
  refine ⟨fun s r hr => ?_, fun s hs => ?_⟩
  · obtain ⟨t, h⟩ | ⟨_, h⟩ := step_answers s
    · exact absurd (h.symm.trans hr) nofun
    · exact absurd (h.symm.trans hr) nofun
  · obtain ⟨t, h⟩ | ⟨hpos, _⟩ := step_answers s
    · exact ⟨t, h, step_params h⟩
    · exact absurd hs hpos

end Sys2Proof.Machine
end

section
/-! SUPPORT. The proofs of the statements on what each command does at each position (spec/40_reader.md R100, R105,
spec/41_drain.md R130, R131, R140, R145, spec/42_framer.md R170, R175, R176). -/
namespace Sys2Proof.Machine

/-! ### One position of a micro-program (R31) -/

/-- Before the last position the sequencer goes on. -/
theorem advance_eq_goOn {n k : Nat} (h : k + 1 ≠ n) (u : State) (hu : u.upc = k) : u.advance n = goOn (k + 1) u := by
  subst hu
  exact State.advance_more h

/-- At the last position the command retires. -/
theorem advance_eq_retire {n k : Nat} (h : k + 1 = n) (u : State) (hu : u.upc = k) : u.advance n = retire u :=
  State.advance_last (hu ▸ h)

section
variable {c : Instr} {s : State} {k : Nat} {adv : State → State}

/-- At position `k` a command performs its enabled micro-operation, and the sequencer advances as `adv` says. -/
theorem exec_performs {m : MicroOp} (h : s.At c k) (hm : (mu s.params.pixelCount c)[k]? = some m)
    (hen : m.enabled s = true) (hadv : ∀ u : State, u.upc = k → u.advance (muLength s.params.pixelCount c) = adv u) :
    exec c s = .next (adv (m.perform s)) := by
  have ⟨_, _, hupc⟩ := h
  rw [exec_at h hm hen, hadv _ (by rw [MicroOp.perform_upc, hupc])]

/-- The same before the last position. -/
theorem exec_goesOn {m : MicroOp} (h : s.At c k) (hm : (mu s.params.pixelCount c)[k]? = some m)
    (hen : m.enabled s = true) (hk : k + 1 < muLength s.params.pixelCount c) :
    exec c s = .next (goOn (k + 1) (m.perform s)) :=
  exec_performs h hm hen (advance_eq_goOn hk.ne)

/-- The same at the last position. -/
theorem exec_retires {m : MicroOp} (h : s.At c k) (hm : (mu s.params.pixelCount c)[k]? = some m)
    (hen : m.enabled s = true) (hk : k + 1 = muLength s.params.pixelCount c) :
    exec c s = .next (retire (m.perform s)) :=
  exec_performs h hm hen (advance_eq_retire hk)

/-- A sample that sees byte `v` and leaves state `u` of the bus (R30). -/
theorem State.sampleBus_store {s u : State} {v : Byte} (h : s.busSample = (v, u)) (dst : Dst) :
    s.sampleBus dst = { u.store dst v with latch := some v, hist := u.hist ++ [.sample v] } := by
  obtain ⟨hnone, hhi, hlo⟩ := State.sampleBus_eq h
  cases dst
  · exact hnone
  · exact hhi
  · exact hlo

/-- A command at a `SAMPLE` before its last position (R30, R66). -/
theorem samples_at {dst : Dst} (h : s.At c k) (hm : (mu s.params.pixelCount c)[k]? = some (.sample dst))
    (hk : k + 1 < muLength s.params.pixelCount c) :
    Samples c s fun v u => { u.store dst v with latch := some v, hist := u.hist ++ [.sample v], upc := k + 1 } := by
  have hx := exec_goesOn h hm rfl hk
  rw [MicroOp.perform] at hx
  refine ⟨fun v rest hb => ?_, fun hb => ⟨Config.freeByte s.draws, ?_⟩⟩
  · rw [hx, State.sampleBus_store (State.busSample_cons hb)]; rfl
  · rw [hx, State.sampleBus_store (State.busSample_nil hb)]; rfl

/-- A command at its `PIX` (R30, R132). -/
theorem forwardsPixel_at (h : s.At c k) (hm : (mu s.params.pixelCount c)[k]? = some .pix)
    (hadv : ∀ u : State, u.upc = k → u.advance (muLength s.params.pixelCount c) = adv u) : ForwardsPixel c s adv := by
  obtain ⟨v, d, heq, hv⟩ := s.putPixel_eq
  exact ⟨v, d, by rw [exec_performs h hm rfl hadv, MicroOp.perform, heq], hv⟩

/-- A command at a `TX(HI)` (R30). -/
theorem transmitsHi_at (h : s.At c k) (hm : (mu s.params.pixelCount c)[k]? = some (.tx .hi)) (htx : s.txReady = true)
    (hadv : ∀ u : State, u.upc = k → u.advance (muLength s.params.pixelCount c) = adv u) :
    TransmitsByte c s.hi s adv := by
  obtain ⟨v, d, heq, _, hv, _⟩ := State.transmit_eq .hi s
  exact ⟨v, d, by rw [exec_performs h hm htx hadv, MicroOp.perform, heq], fun b => hv b rfl⟩

/-- A command at a `TX(LO)` (R30). -/
theorem transmitsLo_at (h : s.At c k) (hm : (mu s.params.pixelCount c)[k]? = some (.tx .lo)) (htx : s.txReady = true)
    (hadv : ∀ u : State, u.upc = k → u.advance (muLength s.params.pixelCount c) = adv u) :
    TransmitsByte c s.lo s adv := by
  obtain ⟨v, d, heq, _, _, hv⟩ := State.transmit_eq .lo s
  exact ⟨v, d, by rw [exec_performs h hm htx hadv, MicroOp.perform, heq], fun b => hv b rfl⟩

/-- A command whose micro-program begins with that of RPR (R105). -/
theorem rewindSteps_of (hmu : ∀ k, k < 6 → (mu s.params.pixelCount c)[k]? = muRpr[k]?)
    (hlen : 6 ≤ muLength s.params.pixelCount c)
    (hlast : ∀ u : State, u.upc = 5 → u.advance (muLength s.params.pixelCount c) = adv u) : RewindSteps c s adv :=
  ⟨fun h => exec_goesOn h (hmu 0 (by omega)) rfl (by omega), fun h => exec_goesOn h (hmu 1 (by omega)) rfl (by omega),
    fun h => exec_goesOn h (hmu 2 (by omega)) rfl (by omega), fun h => exec_goesOn h (hmu 3 (by omega)) rfl (by omega),
    fun h => exec_goesOn h (hmu 4 (by omega)) rfl (by omega), fun h => exec_performs h (hmu 5 (by omega)) rfl hlast⟩

/-- A command whose micro-program has the two reads of a pixel at position `b` (R130, R131). -/
theorem pixelReadSteps_of {b : Nat} (hmu : ∀ k, k < 6 → (mu s.params.pixelCount c)[b + k]? = muPxd[k]?)
    (hlen : b + 6 < muLength s.params.pixelCount c) : PixelReadSteps c b s :=
  ⟨fun h => exec_goesOn h (hmu 0 (by omega)) rfl (by omega), fun h => samples_at h (hmu 1 (by omega)) (by omega),
    fun h => exec_goesOn h (hmu 2 (by omega)) rfl (by omega), fun h => exec_goesOn h (hmu 3 (by omega)) rfl (by omega),
    fun h => samples_at h (hmu 4 (by omega)) (by omega), fun h => exec_goesOn h (hmu 5 (by omega)) rfl (by omega)⟩

end

/-! ### The short commands -/

/-- The two reads of PXS are those of PXD (R130, R131). -/
theorem muPxs_reads : ∀ k, k < 6 → muPxs[k]? = muPxd[k]? := by decide

/-- Settles O14, position by position. -/
theorem rdbSteps : Obligations.RdbSteps := fun _ =>
  ⟨fun h => exec_goesOn h rfl rfl (by decide : 1 < 3), fun h => samples_at h rfl (by decide : 2 < 3),
    fun h => exec_retires h rfl rfl rfl⟩

/-- Settles O15, from `rewindSteps_of`. -/
theorem rprSteps : Obligations.RprSteps := fun _ =>
  rewindSteps_of (fun _ _ => rfl) (Nat.le_refl 6) (advance_eq_retire rfl)

/-- Settles O16, from `pixelReadSteps_of` and `forwardsPixel_at`. -/
theorem pxdSteps : Obligations.PxdSteps := fun _ =>
  ⟨pixelReadSteps_of (fun k _ => congrArg (muPxd[·]?) (Nat.zero_add k)) (Nat.lt_succ_self 6),
    fun h => forwardsPixel_at h rfl (advance_eq_retire rfl)⟩

/-- Settles O17, from `pixelReadSteps_of` and the lemmas on transmits. -/
theorem pxsSteps : Obligations.PxsSteps := fun _ =>
  ⟨pixelReadSteps_of (fun k hk => (congrArg (muPxs[·]?) (Nat.zero_add k)).trans (muPxs_reads k hk)) (by decide : 6 < 8),
    fun h htx => transmitsHi_at h rfl htx (advance_eq_goOn (by decide : 7 ≠ 8)),
    fun h htx => transmitsLo_at h rfl htx (advance_eq_retire rfl)⟩

/-- Settles O18: TXB has one micro-operation. -/
theorem txbTransmits : Obligations.TxbTransmits := fun _ _ h htx => exec_retires h rfl htx rfl

/-- Settles O19, position by position. -/
theorem markersTransmit : Obligations.MarkersTransmit := fun _ htx =>
  ⟨fun h => exec_goesOn h rfl htx (by decide : 1 < 2), fun h => exec_retires h rfl htx rfl,
    fun h => exec_goesOn h rfl htx (by decide : 1 < 2), fun h => exec_retires h rfl htx rfl⟩

/-! ### The drains -/

/-- Settles O20: the index map of DRD (R146) says which micro-operation stands where. -/
theorem drdSteps : Obligations.DrdSteps := by
  intro s
  have hlen : muLength s.params.pixelCount .drd = 7 * s.params.pixelCount + 8 := rfl
  refine ⟨rewindSteps_of ?_ (by omega) (advance_eq_goOn (by omega)), fun i hi => ⟨?_, fun h => ?_⟩, fun h => ?_,
    fun h => ?_⟩
  · intro k hk
    exact List.getElem?_append_left hk
  · exact pixelReadSteps_of (fun k hk => mu_drd_pixel hi (by omega)) (by omega)
  · exact forwardsPixel_at h (mu_drd_pixel hi (by omega)) (advance_eq_goOn (by omega))
  · rw [exec_goesOn h (mu_drd_end _ 0) rfl (by omega), MicroOp.perform, State.ackFv_eq]; rfl
  · exact exec_retires h (mu_drd_end _ 1) rfl rfl

/-- Settles O21: the index map of DRS (R146) says which micro-operation stands where. -/
theorem drsSteps : Obligations.DrsSteps := by
  intro s
  have hlen : muLength s.params.pixelCount .drs = 8 * s.params.pixelCount + 12 := rfl
  refine ⟨rewindSteps_of ?_ (by omega) (advance_eq_goOn (by omega)),
    fun htx => ⟨fun h => ?_, fun h => ?_, fun h => ?_, fun h => ?_⟩,
    fun i hi => ⟨?_, fun h htx => ?_, fun h htx => ?_⟩, fun h => ?_, fun h => ?_⟩
  · intro k hk
    exact List.getElem?_append_left hk
  · exact exec_goesOn h rfl htx (by omega)
  · exact exec_goesOn h rfl htx (by omega)
  · exact exec_goesOn h (mu_drs_end _ 0) htx (by omega)
  · exact exec_goesOn h (mu_drs_end _ 1) htx (by omega)
  · exact pixelReadSteps_of (fun k hk => (mu_drs_pixel hi (by omega)).trans (muPxs_reads k hk)) (by omega)
  · exact transmitsHi_at h (mu_drs_pixel hi (by omega)) htx (advance_eq_goOn (by omega))
  · exact transmitsLo_at h (mu_drs_pixel hi (by omega)) htx (advance_eq_goOn (by omega))
  · rw [exec_goesOn h (mu_drs_end _ 2) rfl (by omega), MicroOp.perform, State.ackFv_eq]; rfl
  · exact exec_retires h (mu_drs_end _ 3) rfl rfl

end Sys2Proof.Machine
end

section
/-! SUPPORT. The proofs of the statements on frames: what each command leaves unchanged (spec/40_reader.md,
spec/41_drain.md, spec/42_framer.md). -/
namespace Sys2Proof.Machine

/-! ### What an answered command has done -/

/-- An answered command has left the state as it is, started, or performed a micro-operation of its micro-program. -/
theorem exec_next_mem {i : Instr} {s t : State} (h : exec i s = .next t) :
    t = s ∨ (s.CanAccept ∧ t = s.start i (isDrain i)) ∨
      (∃ m ∈ mu s.params.pixelCount i, t = (m.perform s).advance (muLength s.params.pixelCount i)) := by
  obtain ⟨ht, _⟩ | ⟨he, hc, ht⟩ | ⟨_, _, m, hp, ⟨_, ht⟩ | ⟨_, ht⟩⟩ := exec_next h
  · exact .inl ht
  · exact .inr (.inl ⟨⟨he, hc⟩, ht⟩)
  · exact .inr (.inr ⟨m, List.mem_of_getElem? hp, ht⟩)
  · exact .inl ht

/-- A command other than a drain starts without a check (R86). -/
theorem State.start_of_not_drain {i : Instr} (h : isDrain i = false) (s : State) :
    s.start i (isDrain i) = { s with cmd := some i, upc := 0 } := by
  simp [State.start, h]

/-- RDB drives the clock and samples into the latch alone (R100). -/
theorem mem_mu_rdb {n : Nat} {m : MicroOp} (h : m ∈ mu n .rdb) : (∃ l, m = .rclk l) ∨ m = .sample .none := by
  revert m; simp [mu, muRdb]

/-- RPR drives the two lines (R105). -/
theorem mem_mu_rpr {n : Nat} {m : MicroOp} (h : m ∈ mu n .rpr) : (∃ l, m = .rclk l) ∨ ∃ a, m = .rrst a := by
  revert m; simp [mu, muRpr]

/-- PXD drives the clock, samples and forwards (R130). -/
theorem mem_mu_pxd {n : Nat} {m : MicroOp} (h : m ∈ mu n .pxd) :
    (∃ l, m = .rclk l) ∨ (∃ dst, m = .sample dst) ∨ m = .pix := by
  revert m; simp [mu, muPxd]

/-- PXS drives the clock, samples and transmits (R131). -/
theorem mem_mu_pxs {n : Nat} {m : MicroOp} (h : m ∈ mu n .pxs) :
    (∃ l, m = .rclk l) ∨ (∃ dst, m = .sample dst) ∨ ∃ src, m = .tx src := by
  revert m; simp [mu, muPxs]

/-- Settles O27, along what an answered command has done. -/
theorem readerCommandsFrame : Obligations.ReaderCommandsFrame := by
  constructor <;> intro s t h
  · obtain rfl | ⟨_, rfl⟩ | ⟨m, hm, rfl⟩ := exec_next_mem h
    · simp
    · rw [State.start_of_not_drain rfl]; simp
    · obtain ⟨l, rfl⟩ | rfl := mem_mu_rdb hm
      · simp [MicroOp.perform]
      · simp [MicroOp.perform, State.sampleBus, State.store]
  · obtain rfl | ⟨_, rfl⟩ | ⟨m, hm, rfl⟩ := exec_next_mem h
    · rfl
    · rw [State.start_of_not_drain rfl]
    · obtain ⟨l, rfl⟩ | ⟨a, rfl⟩ := mem_mu_rpr hm <;> unfold State.advance <;> split <;> rfl

/-- Settles O28, along what an answered command has done. -/
theorem pixelCommandsFrame : Obligations.PixelCommandsFrame := by
  constructor
  · intro i s t hi h
    have hnot : isDrain i = false := by obtain rfl | rfl := hi <;> rfl
    obtain rfl | ⟨_, rfl⟩ | ⟨m, hm, rfl⟩ := exec_next_mem h
    · simp
    · rw [State.start_of_not_drain hnot]; simp
    · obtain rfl | rfl := hi
      · obtain ⟨l, rfl⟩ | ⟨dst, rfl⟩ | rfl := mem_mu_pxd hm <;> simp [MicroOp.perform]
      · obtain ⟨l, rfl⟩ | ⟨dst, rfl⟩ | ⟨src, rfl⟩ := mem_mu_pxs hm <;> simp [MicroOp.perform]
  · intro s t h
    obtain rfl | ⟨_, rfl⟩ | ⟨m, hm, rfl⟩ := exec_next_mem h
    · rfl
    · simp
    · obtain ⟨l, rfl⟩ | ⟨dst, rfl⟩ | ⟨src, rfl⟩ := mem_mu_pxs hm <;> simp [MicroOp.perform]

/-- Settles O29: the framer's micro-operations are transmits of immediate bytes. -/
theorem framerCommandsFrame : Obligations.FramerCommandsFrame := by
  intro i s t hi h
  have hnot : isDrain i = false := by obtain rfl | rfl | ⟨b, rfl⟩ := hi <;> rfl
  obtain rfl | ⟨_, rfl⟩ | ⟨m, hm, rfl⟩ := exec_next_mem h
  · rfl
  · rw [State.start_of_not_drain hnot]
  · obtain ⟨b, rfl⟩ := eq_tx_of_mem_mu_framer hi m hm
    unfold State.advance
    split <;> rfl

/-! ### The drains -/

/-- A drain ends with ACKFV and CLRRDY, and no ACKFV stands before (R140, R145). -/
theorem mu_drain_end (n : Nat) {c : Instr} (h : isDrain c = true) :
    ∃ p, mu n c = p ++ [.ackFv, .clrRdy] ∧ .ackFv ∉ p := by
  obtain rfl | rfl := eq_drd_or_drs_of_isDrain h
  · have hpix : .ackFv ∉ repeated muPxd n := fun hm => absurd (mem_repeated hm) (by decide)
    exact ⟨muRpr ++ repeated muPxd n, by simp [mu, muDrd], by simp [muRpr, hpix]⟩
  · have hpix : .ackFv ∉ repeated muPxs n := fun hm => absurd (mem_repeated hm) (by decide)
    exact ⟨muRpr ++ (muTxsm ++ (repeated muPxs n ++ muTxem)), by simp [mu, muDrs],
      by simp [muRpr, muTxsm, muTxem, hpix]⟩

/-- In a drain ACKFV stands at the last position but one only. -/
theorem ackFv_at_drain_end {n k : Nat} {c : Instr} (hd : isDrain c = true) (h : (mu n c)[k]? = some .ackFv) :
    k = muLength n c - 2 := by
  obtain ⟨p, hp, hmem⟩ := mu_drain_end n hd
  have hlen : muLength n c = p.length + 2 := by simp [← mu_length, hp]
  rw [hp] at h
  have hge : ¬ k < p.length := fun hk =>
    hmem (List.mem_of_getElem? (by rwa [List.getElem?_append_left hk] at h))
  rw [List.getElem?_append_right (by omega)] at h
  rcases hj : k - p.length with _ | _ | j
  · omega
  · simp [hj] at h
  · simp [hj] at h

/-- Only ACKFV changes the pending bit and the missed-frame counter (R30). -/
theorem MicroOp.perform_fvPending_of_ne {m : MicroOp} (h : m ≠ .ackFv) (s : State) :
    (m.perform s).fvPending = s.fvPending := by
  cases m
  case ackFv => exact absurd rfl h
  all_goals simp [MicroOp.perform]

/-- Only PIX writes the pixel register (R30). -/
theorem MicroOp.perform_pix16_of_ne {m : MicroOp} (h : m ≠ .pix) (s : State) : (m.perform s).pix16 = s.pix16 := by
  cases m
  case pix => exact absurd rfl h
  all_goals simp [MicroOp.perform]

/-- DRS forwards no pixel (R145). -/
theorem pix_not_mem_mu_drs (n : Nat) : .pix ∉ mu n .drs := by
  have hpix : .pix ∉ repeated muPxs n := fun hm => absurd (mem_repeated hm) (by decide)
  simp [mu, muDrs, muRpr, muTxsm, muTxem, hpix]

/-- Settles O30: a refused acceptance sets `err`, and of the micro-operations only the last two write the flags and the
counters. -/
theorem drainsFrame : Obligations.DrainsFrame := by
  intro i s t hi h
  have hd : isDrain i = true := by obtain rfl | rfl := hi <;> rfl
  obtain ⟨rfl, _⟩ | ⟨he, hc, rfl⟩ | ⟨he, hc, m, hp, ⟨_, rfl⟩ | ⟨_, rfl⟩⟩ := exec_next h
  · simp
  · obtain ⟨_, hready, hstart⟩ | ⟨_, hstart⟩ := s.start_cases i (isDrain i)
    · simp [hstart, State.CanAccept, he, hc, hready]
    · simp [hstart]
  · refine ⟨by simp, by simp, by simp, by simp, ?_, by simp, fun hne => ?_, fun hne => ?_⟩
    · rintro rfl
      have hpix : m ≠ .pix := fun hm => pix_not_mem_mu_drs _ (hm ▸ List.mem_of_getElem? hp)
      simp [MicroOp.perform_pix16_of_ne hpix]
    · have hack : m ≠ .ackFv := fun hm => hne ⟨he, hc, ackFv_at_drain_end hd (hm ▸ hp)⟩
      simp [MicroOp.perform_fvPending_of_ne hack, MicroOp.perform_missedCount_of_ne hack]
    · have hclr : m ≠ .clrRdy := by
        rintro rfl
        obtain ⟨_, hlast⟩ := clrRdy_at_drain_end hp
        exact hne ⟨he, hc, by omega⟩
      simp [MicroOp.perform_ready_of_ne hclr, MicroOp.perform_frameCount_of_ne hclr]
  · simp

end Sys2Proof.Machine
end

section
/-! SUPPORT. The proofs of the statements on the environment's and the host's steps and on the ports (spec/10_state.md R20,
R29, R34, R35). -/
namespace Sys2Proof.Machine

/-- What a frame-valid edge does, the missed frame counted as R28 writes it. -/
theorem State.frameValidEdge_eq (s : State) :
    s.frameValidEdge = { s with
      fvPending := true
      missedCount := if s.params.missedFrameCounter = true ∧ s.fvPending = true then
          (s.missedCount + 1) % 2 ^ s.params.frameCountWidth
        else s.missedCount
      hist := s.hist ++ [.fvEdge] } := by
  rw [State.frameValidEdge, State.countMissed_eq]; rfl

/-- Settles O32, from `frameValidEdge_eq`. -/
theorem environmentStepsAreTheRules : Obligations.EnvironmentStepsAreTheRules := fun s =>
  ⟨fun _ => rfl, congrArg _ s.frameValidEdge_eq⟩

/-- Settles O33, along the word on CMD. -/
theorem hostStepsAreTheRules : Obligations.HostStepsAreTheRules := fun s =>
  ⟨fun w hw => by simp [take, State.issueMove, hw], fun w v hw => by simp [take, State.issueMove, hw],
    fun _ => ⟨s.draws + 1, rfl⟩⟩

/-- The six one-bit fields of STATUS (R29). -/
theorem State.status_flags (s : State) :
    s.status.getLsbD 0 = s.ready ∧ s.status.getLsbD 1 = s.fvPending ∧ s.status.getLsbD 2 = s.busy ∧
      s.status.getLsbD 3 = s.txReady ∧ s.status.getLsbD 6 = s.rclk ∧ s.status.getLsbD 7 = s.rrst := by
  unfold State.status
  refine ⟨?_, ?_, ?_, ?_, ?_, ?_⟩
  all_goals
    repeat rw [BitVec.getLsbD_append]
    simp

/-- The fault code stands in bits 5:4 (R29, R200). -/
theorem State.status_err (s : State) : s.status.extractLsb' 4 2 = s.err.code := by
  unfold State.status
  repeat rw [BitVec.extractLsb'_append_eq_of_le (by decide)]
  exact BitVec.extractLsb'_append_eq_right

/-- Bits 15:8 are reserved (R29). -/
theorem State.status_reserved (s : State) : s.status.extractLsb' 8 8 = (0 : Byte) := by
  unfold State.status
  repeat rw [BitVec.extractLsb'_append_eq_of_le (by decide)]
  simp

/-- Settles O35, field by field. -/
theorem statusHasItsFields : Obligations.StatusHasItsFields := by
  intro s
  obtain ⟨hready, hpending, hbusy, htx, hrclk, hrrst⟩ := s.status_flags
  have herr := s.status_err
  refine ⟨hready, hpending, ?_, htx, fun he => by rw [herr, he]; rfl, fun he => by rw [herr, he]; rfl,
    fun he => by rw [herr, he]; rfl, hrclk, hrrst, s.status_reserved, by simp [State.cmdReady]⟩
  rw [hbusy, State.busy]
  cases s.cmd <;> simp

/-- Settles O36: each port shows its register, or a free value where the register holds none. -/
theorem portsShowTheRegisters : Obligations.PortsShowTheRegisters := by
  intro s
  have hlevel : s.params.rrstActiveLevel.other ≠ s.params.rrstActiveLevel := by
    cases s.params.rrstActiveLevel <;> exact nofun
  refine ⟨fun h => by simp [State.rrstPin, h], fun h => by simpa [State.rrstPin, h] using hlevel, fun before after => ?_,
    rfl, rfl, rfl, rfl, ⟨_, rfl⟩, ⟨_, rfl⟩, ⟨_, rfl⟩, ⟨_, rfl⟩, ⟨_, rfl⟩, fun v h => ?_, fun v h => ?_,
    fun h => ?_, fun h ho => ?_, fun ho => ?_⟩
  · unfold isFrameValidEdge
    cases s.params.fvActiveEdge <;> simp
  · simp [State.readPort, State.rdData, h]
  · simp [State.readPort, State.pix16Port, h]
  · obtain ⟨hframe, _, _⟩ := h
    simp [State.readPort, State.frameCountPort, Nat.mod_eq_of_lt hframe]
  · obtain ⟨_, hmissed, _⟩ := h
    simp [State.readPort, State.missedCountPort, ho, Nat.mod_eq_of_lt hmissed]
  · simp [State.readPort, State.missedCountPort, ho]

end Sys2Proof.Machine
end

section
/-! SUPPORT. The proofs of the statements on whole commands, from the word on CMD to retirement (spec/30_encoding.md R86,
spec/10_state.md R31). -/
namespace Sys2Proof.Machine

/-! ### Micro-operations in a row -/

/-- The micro-operations `p`, performed one after the other. -/
def performAll (p : List MicroOp) (s : State) : State := p.foldl (fun u m => m.perform u) s

@[simp] theorem performAll_nil (s : State) : performAll [] s = s := rfl

@[simp] theorem performAll_cons (m : MicroOp) (p : List MicroOp) (s : State) :
    performAll (m :: p) s = performAll p (m.perform s) := rfl

@[simp] theorem performAll_append (p q : List MicroOp) (s : State) :
    performAll (p ++ q) s = performAll q (performAll p s) :=
  List.foldl_append

/-- The sequencer at position `k` of command `c`, and the moves `a` to come. -/
def sequenced (c : Option Instr) (k : Nat) (a : List Config.Move) (s : State) : State :=
  { s with cmd := c, upc := k, agenda := a }

/-- No micro-operation depends on the sequencer or the agenda, or changes them (R30). -/
theorem MicroOp.perform_sequenced (m : MicroOp) (c : Option Instr) (k : Nat) (a : List Config.Move) (s : State) :
    m.perform (sequenced c k a s) = sequenced c k a (m.perform s) := by
  obtain ⟨rclk, rrst, latch, hi, lo, pix16, ready, fvPending, frameCount, missedCount, cmd, upc, err, hist, txReady,
    cmdPort, params, bus, agenda, draws⟩ := s
  cases m
  case sample dst => cases dst <;> cases bus <;> rfl
  case tx src => rcases src with b | _ | _ <;> cases hi <;> cases lo <;> rfl
  case pix => cases hi <;> cases lo <;> rfl
  case ackFv =>
    simp only [MicroOp.perform, State.ackFv_eq, sequenced]
  all_goals rfl

/-- One turn of a block that has `m` next. -/
theorem step_sequenced {c : Instr} {u : State} {k : Nat} {m : MicroOp} {ms : List Config.Move} (he : u.err = .none)
    (hm : (mu u.params.pixelCount c)[k]? = some m) (hen : m.enabled u = true) :
    step (sequenced (some c) k (.block :: ms) u) = .next
      (if k + 1 = muLength u.params.pixelCount c then sequenced none 0 ms (m.perform u)
        else sequenced (some c) (k + 1) ms (m.perform u)) := by
  have hat : (sequenced (some c) k ms u).At c k := ⟨he, rfl, rfl⟩
  have hen' : m.enabled (sequenced (some c) k ms u) = true := by cases m <;> exact hen
  rw [step_cons rfl]
  show blockMove (sequenced (some c) k ms u) = _
  rw [blockMove_busy (c := c) (s := sequenced (some c) k ms u) he rfl, exec_at hat hm hen', MicroOp.perform_sequenced]
  rfl

/-- A row of enabled micro-operations, to the end of the micro-program: the command retires with the last one (R31). -/
theorem run_microOps {c : Instr} {p q : List MicroOp} {u : State} (ms : List Config.Move) (hq : q ≠ [])
    (hmu : mu u.params.pixelCount c = p ++ q) (he : u.err = .none) (htx : u.txReady = true ∨ ∀ src, .tx src ∉ q) :
    run q.length (sequenced (some c) p.length (List.replicate q.length .block ++ ms) u) =
      .next (sequenced none 0 ms (performAll q u)) := by
  induction q generalizing p u with
  | nil => exact absurd rfl hq
  | cons m q ih =>
    have hm : (mu u.params.pixelCount c)[p.length]? = some m := by simp [hmu]
    have hen : m.enabled u = true :=
      (MicroOp.enabled_iff u m).mpr (htx.imp_right fun h src hsrc => h src (by simp [hsrc]))
    have hlen : muLength u.params.pixelCount c = p.length + (q.length + 1) := by rw [← mu_length, hmu]; simp
    rw [List.length_cons, List.replicate_succ, List.cons_append, run_succ_of_step (step_sequenced he hm hen),
      performAll_cons]
    by_cases hlast : q = []
    · subst hlast
      rw [if_pos (by rw [hlen]; rfl)]
      rfl
    · have hpos := List.length_pos_iff.mpr hlast
      rw [if_neg (by omega)]
      have hrest := ih (p := p ++ [m]) (u := m.perform u) hlast (by simp [hmu]) (by simpa using he)
        (by simpa using htx.imp_right fun h src => List.not_mem_of_not_mem_cons (h src))
      rwa [List.length_append] at hrest

/-- The acceptance of a command's word, READY being 1 for a drain (R86). -/
theorem step_accepts {c : Instr} {s : State} {ms : List Config.Move} (hs : s.CanAccept)
    (hw : s.cmdPort = some (encode c)) (hready : isDrain c = true → s.ready = true) (ha : s.agenda = .block :: ms) :
    step s = .next (sequenced (some c) 0 ms (s.takeWord (encode c))) := by
  obtain ⟨he, hc⟩ := hs
  obtain ⟨haccept, _⟩ := (stepRunsTheDecodedCommand s ms he ha).1 _ hc hw
  exact (haccept c (decodeInvertsEncode c (by cases c <;> rfl))).trans (acceptanceStartsTheCommand c _ ⟨he, hc⟩ fun h =>
    hready (by obtain rfl | rfl := h <;> rfl))

/-- A command, from the word on CMD to retirement, where only the block takes its turns (R86, R31). -/
theorem run_command {c : Instr} {s : State} {ms : List Config.Move} (hs : s.CanAccept)
    (hw : s.cmdPort = some (encode c)) (hready : isDrain c = true → s.ready = true)
    (htx : s.txReady = true ∨ ∀ src, .tx src ∉ mu s.params.pixelCount c)
    (ha : s.agenda = List.replicate (muLength s.params.pixelCount c + 1) .block ++ ms) :
    run (muLength s.params.pixelCount c + 1) s =
      .next (sequenced none 0 ms (performAll (mu s.params.pixelCount c) (s.takeWord (encode c)))) := by
  have ⟨he, _⟩ := hs
  have hne : mu s.params.pixelCount c ≠ [] :=
    List.length_pos_iff.mp (by rw [mu_length]; exact muLength_pos _ c)
  have hrun := run_microOps (c := c) (p := []) (u := s.takeWord (encode c)) ms hne rfl he htx
  rw [mu_length] at hrun
  rw [run_succ_of_step (step_accepts hs hw hready ha)]
  exact hrun

/-! ### What each micro-program does -/

/-- The commands that transmit nothing have no `TX` (R30). -/
theorem tx_not_mem_mu (n : Nat) {c : Instr} (hc : c = .rdb ∨ c = .rpr ∨ c = .pxd ∨ c = .drd) (src : Src) :
    .tx src ∉ mu n c := by
  obtain rfl | rfl | rfl | rfl := hc
  · simp [mu, muRdb]
  · simp [mu, muRpr]
  · simp [mu, muPxd]
  · have hpix : .tx src ∉ repeated muPxd n := fun hm => absurd (mem_repeated hm) (by simp [muPxd])
    simp [mu, muDrd, muRpr, hpix]

theorem performAll_rdb {u : State} {v : Byte} {rest : List Byte} (hb : u.bus = v :: rest) :
    performAll muRdb u = { u with
      bus := rest, rclk := true, latch := some v, hist := u.hist ++ [.rclk false, .sample v, .rclk true] } := by
  simp [muRdb, MicroOp.perform, State.driveRclk, State.sampleBus, State.busSample, hb, State.store, State.emit]

theorem performAll_rpr (u : State) :
    performAll muRpr u = { u with rclk := true, rrst := false, hist := u.hist ++ rewindEvents } := by
  simp [muRpr, MicroOp.perform, State.driveRclk, State.driveRrst, State.emit, rewindEvents]

/-- Immediate bytes are transmitted and nothing else changes (R30). -/
theorem performAll_tx (bytes : List Byte) (u : State) :
    performAll (bytes.map fun b => .tx (.imm b)) u = { u with hist := u.hist ++ bytes.map .tx } := by
  induction bytes generalizing u with
  | nil => simp
  | cons b bytes ih => simp [ih, MicroOp.perform, State.transmit, State.source, State.emit]

/-- A whole pixel to the display sink, with the bytes `h` and `l` and the events `e` (R130). -/
def displayed (e : List Event) (h l : Byte) (rest : List Byte) (u : State) : State :=
  { u with
    bus := rest, rclk := true, latch := some l, hi := some h, lo := some l, pix16 := some (h ++ l)
    hist := u.hist ++ e }

/-- The same to the serial sink (R131). -/
def sentRaw (e : List Event) (h l : Byte) (rest : List Byte) (u : State) : State :=
  { u with bus := rest, rclk := true, latch := some l, hi := some h, lo := some l, hist := u.hist ++ e }

theorem performAll_pxd {u : State} {h l : Byte} {rest : List Byte} (hb : u.bus = h :: l :: rest) :
    performAll muPxd u = displayed (displayPixel h l) h l rest u := by
  simp [muPxd, MicroOp.perform, State.driveRclk, State.sampleBus, State.busSample, hb, State.store, State.putPixel,
    pixelOf, State.emit, displayed, displayPixel, readEvents]

theorem performAll_pxs {u : State} {h l : Byte} {rest : List Byte} (hb : u.bus = h :: l :: rest) :
    performAll muPxs u = sentRaw (serialPixel h l) h l rest u := by
  simp [muPxs, MicroOp.perform, State.driveRclk, State.sampleBus, State.busSample, hb, State.store, State.transmit,
    State.source, State.emit, sentRaw, serialPixel, readEvents]

/-- Pixels in a row, where `done e h l rest` is what a pixel with the events `e` and the bytes `h` and `l` leaves: the last
one's bytes, and the events of all. -/
theorem performAll_repeated {p : List MicroOp} {f : Byte → Byte → List Event}
    {done : List Event → Byte → Byte → List Byte → State → State}
    (hp : ∀ {u h l rest}, u.bus = h :: l :: rest → performAll p u = done (f h l) h l rest u)
    (hbus : ∀ e h l rest u, (done e h l rest u).bus = rest)
    (hover : ∀ e e' h h' l l' rest rest' u,
      done e' h' l' rest' (done e h l rest u) = done (e ++ e') h' l' rest' u)
    (pixels : List (Byte × Byte)) {h l : Byte} {rest : List Byte} {u : State}
    (hb : u.bus = (pixels.flatMap fun x => [x.1, x.2]) ++ [h, l] ++ rest) :
    performAll (repeated p (pixels.length + 1)) u =
      done ((pixels.flatMap fun x => f x.1 x.2) ++ f h l) h l rest u := by
  induction pixels generalizing u with
  | nil => simpa [repeated] using hp hb
  | cons x pixels ih =>
    have hx : u.bus = x.1 :: x.2 :: ((pixels.flatMap fun x => [x.1, x.2]) ++ [h, l] ++ rest) := by simpa using hb
    rw [List.length_cons, repeated, performAll_append, hp hx, ih (hbus ..), hover, List.flatMap_cons, List.append_assoc]

/-- The end of a drain (R140, R145). -/
theorem performAll_drain_end (u : State) :
    performAll [.ackFv, .clrRdy] u = { u with
      ready := false, fvPending := false
      frameCount := (u.frameCount + 1) % 2 ^ u.params.frameCountWidth
      missedCount :=
        if u.params.missedFrameCounter = true ∧ u.fvPending = true then
          (u.missedCount + 1) % 2 ^ u.params.frameCountWidth
        else u.missedCount
      hist := u.hist ++ [.ackFv u.fvPending, .frameDone ((u.frameCount + 1) % 2 ^ u.params.frameCountWidth)] } := by
  simp [MicroOp.perform, State.ackFv_eq, State.clearReady, State.emit, bump]

/-! ### From the word on CMD to retirement -/

/-- Settles O22: `run_command`, with what each micro-program does. -/
theorem shortCommandsRunToRetirement : Obligations.ShortCommandsRunToRetirement := by
  intro s ms hs
  have ⟨_, hc⟩ := hs
  refine ⟨fun v rest hw hb ha => ?_, fun hw ha => ?_, fun h l rest hw hb ha => ?_, fun b hw htx ha => ?_,
    fun hw htx ha => ?_, fun hw htx ha => ?_⟩
  · refine (run_command (c := .rdb) hs hw nofun (.inr (tx_not_mem_mu _ (by simp))) ha).trans ?_
    rw [mu, performAll_rdb (u := s.takeWord _) hb, hc, List.append_cons s.hist]; rfl
  · refine (run_command (c := .rpr) hs hw nofun (.inr (tx_not_mem_mu _ (by simp))) ha).trans ?_
    rw [mu, performAll_rpr, hc]; rfl
  · refine (run_command (c := .pxd) hs hw nofun (.inr (tx_not_mem_mu _ (by simp))) ha).trans ?_
    rw [mu, performAll_pxd (u := s.takeWord _) hb, hc, List.append_assoc]; rfl
  · refine (run_command (c := .txb b) hs hw nofun (.inl htx) ha).trans ?_
    exact (congrArg _ (congrArg _ (performAll_tx [b] _))).trans (by rw [hc, List.append_cons]; rfl)
  · refine (run_command (c := .txsm) hs hw nofun (.inl htx) ha).trans ?_
    exact (congrArg _ (congrArg _ (performAll_tx [0x01, 0xFE] _))).trans (by rw [hc, List.append_cons]; rfl)
  · refine (run_command (c := .txem) hs hw nofun (.inl htx) ha).trans ?_
    exact (congrArg _ (congrArg _ (performAll_tx [0xFE, 0x01] _))).trans (by rw [hc, List.append_cons]; rfl)

/-- Settles O23, from `run_command` and `performAll_pxs`. -/
theorem pxsRunsToRetirement : Obligations.PxsRunsToRetirement := by
  intro s h l rest ms hs hw hb htx ha
  refine (run_command (c := .pxs) hs hw nofun (.inl htx) ha).trans ?_
  rw [mu, performAll_pxs (u := s.takeWord _) hb, List.append_assoc]; rfl

/-- Settles O24: after the rewind the pixels of the frame, then ACKFV and CLRRDY. -/
theorem drdRunsToRetirement : Obligations.DrdRunsToRetirement := by
  intro s pre h l rest ms hs hw hready hlen hb ha
  obtain ⟨pixels, hpixels, rfl⟩ := exists_pixels (n := s.params.pixelCount - 1) (bytes := pre) (by omega)
  have hn : s.params.pixelCount = pixels.length + 1 := by omega
  have hevents : displayEvents ((pixels.flatMap fun x => [x.1, x.2]) ++ [h, l]) =
      (pixels.flatMap fun x => displayPixel x.1 x.2) ++ displayPixel h l := by
    simpa using displayEvents_flatMap (pixels ++ [(h, l)])
  have hpix := performAll_repeated (done := displayed) performAll_pxd (fun _ _ _ _ _ => rfl)
    (fun _ _ _ _ _ _ _ _ _ => by simp [displayed]) pixels (u := performAll muRpr (s.takeWord 0x2000))
    (by rw [performAll_rpr]; exact hb)
  refine (run_command (c := .drd) hs hw (fun _ => hready) (.inr (tx_not_mem_mu _ (by simp))) ha).trans ?_
  rw [mu, muDrd, performAll_append, performAll_append, hn, show encode .drd = 0x2000 from rfl, hpix,
    performAll_drain_end, performAll_rpr, hevents]
  rfl

/-- Settles O25: after the rewind and the start marker the pixels of the frame, then the end marker, ACKFV and CLRRDY. -/
theorem drsRunsToRetirement : Obligations.DrsRunsToRetirement := by
  intro s pre h l rest ms hs hw hready htx hlen hb ha
  obtain ⟨pixels, hpixels, rfl⟩ := exists_pixels (n := s.params.pixelCount - 1) (bytes := pre) (by omega)
  have hn : s.params.pixelCount = pixels.length + 1 := by omega
  have hevents : serialEvents ((pixels.flatMap fun x => [x.1, x.2]) ++ [h, l]) =
      (pixels.flatMap fun x => serialPixel x.1 x.2) ++ serialPixel h l := by
    simpa using serialEvents_flatMap (pixels ++ [(h, l)])
  have hstart : ∀ u, performAll muTxsm u = { u with hist := u.hist ++ [.tx 0x01, .tx 0xFE] } :=
    performAll_tx [0x01, 0xFE]
  have hend : ∀ u, performAll muTxem u = { u with hist := u.hist ++ [.tx 0xFE, .tx 0x01] } :=
    performAll_tx [0xFE, 0x01]
  have hpix := performAll_repeated (done := sentRaw) performAll_pxs (fun _ _ _ _ _ => rfl)
    (fun _ _ _ _ _ _ _ _ _ => by simp [sentRaw]) pixels
    (u := performAll muTxsm (performAll muRpr (s.takeWord 0x2100)))
    (by rw [hstart, performAll_rpr]; exact hb)
  refine (run_command (c := .drs) hs hw (fun _ => hready) (.inl htx) ha).trans ?_
  rw [mu, muDrs, performAll_append, performAll_append, performAll_append, performAll_append, hn,
    show encode .drs = 0x2100 from rfl, hpix, performAll_drain_end, hend, hstart, performAll_rpr, hevents]
  rfl

end Sys2Proof.Machine
end

section
/-! SUPPORT. The proofs of the statements on the end of a drain and on completion: what a move can do while a command is in
progress, and what follows for runs (spec/41_drain.md R152, spec/70_reset_and_hazards.md R266). -/
namespace Sys2Proof.Machine

/-! ### The end of a drain (R152) -/

theorem step_sequenced_fvEdge (c : Option Instr) (k : Nat) (ms : List Config.Move) (u : State) :
    step (sequenced c k (.fvEdge :: ms) u) = .next (sequenced c k ms u.frameValidEdge) := by
  rw [step_cons rfl, take, State.frameValidEdge_eq, State.frameValidEdge_eq]
  rfl

theorem State.interruptMove_sequenced (c : Option Instr) (k : Nat) (ms : List Config.Move) (u : State) :
    (sequenced c k ms u).interruptMove = sequenced c k ms u.interruptMove := by
  cases hf : u.fvPending <;> simp [State.interruptMove, State.interruptStep_eq, sequenced, hf]

theorem step_sequenced_interrupt (c : Option Instr) (k : Nat) (ms : List Config.Move) (u : State) :
    step (sequenced c k (.interrupt :: ms) u) = .next (sequenced c k ms u.interruptMove) := by
  rw [step_cons rfl, take, ← State.interruptMove_sequenced]
  rfl

/-- A state at a position of a command, with its sequencer and agenda written out. -/
theorem sequenced_of_at {c : Instr} {s : State} {k : Nat} {ms : List Config.Move} (h : s.At c k) (ha : s.agenda = ms) :
    s = sequenced (some c) k ms s := by
  obtain ⟨_, hc, hk⟩ := h
  rw [sequenced, ← hc, ← hk, ← ha]

/-- The two last micro-operations of a drain, by position. -/
theorem getElem?_drain_end (n : Nat) {c : Instr} (hd : isDrain c = true) :
    ∃ k, muLength n c = k + 2 ∧ (mu n c)[k]? = some .ackFv ∧ (mu n c)[k + 1]? = some .clrRdy := by
  obtain ⟨p, hp, _⟩ := mu_drain_end n hd
  exact ⟨p.length, by simp [← mu_length, hp], by simp [hp], by simp [hp]⟩

/-- ACKFV with the sequencer at a drain's last position but one. -/
theorem step_sequenced_ackFv {c : Instr} {u : State} {k : Nat} (ms : List Config.Move) (he : u.err = .none)
    (hm : (mu u.params.pixelCount c)[k]? = some .ackFv) (hlen : muLength u.params.pixelCount c = k + 2) :
    step (sequenced (some c) k (.block :: ms) u) = .next (sequenced (some c) (k + 1) ms u.ackFv) := by
  rw [step_sequenced he hm rfl, if_neg (by omega), MicroOp.perform]

/-- CLRRDY with the sequencer at a drain's last position. -/
theorem step_sequenced_clrRdy {c : Instr} {u : State} {k : Nat} (ms : List Config.Move) (he : u.err = .none)
    (hm : (mu u.params.pixelCount c)[k]? = some .clrRdy) (hlen : muLength u.params.pixelCount c = k + 1) :
    step (sequenced (some c) k (.block :: ms) u) = .next (sequenced none 0 ms u.clearReady) := by
  rw [step_sequenced he hm rfl, if_pos hlen.symm, MicroOp.perform]

/-- Settles O47: the four orders, step by step. -/
theorem edgeFatesAtTheEndOfADrain : Obligations.EdgeFatesAtTheEndOfADrain := by
  intro s c ms hd hat _ _
  obtain ⟨k, hlen, hack, hclr⟩ := getElem?_drain_end s.params.pixelCount hd
  rw [show muLength s.params.pixelCount c - 2 = k by omega] at hat
  have ⟨he, _, _⟩ := hat
  have ack : ∀ (u : State) (ms : List Config.Move), u.params = s.params → u.err = s.err →
      step (sequenced (some c) k (.block :: ms) u) = .next (sequenced (some c) (k + 1) ms u.ackFv) :=
    fun u ms hp hu => step_sequenced_ackFv ms (hu.trans he) (hp ▸ hack) (hp ▸ hlen)
  have clr : ∀ (u : State) (ms : List Config.Move), u.params = s.params → u.err = s.err →
      step (sequenced (some c) (k + 1) (.block :: ms) u) = .next (sequenced none 0 ms u.clearReady) :=
    fun u ms hp hu => step_sequenced_clrRdy ms (hu.trans he) (hp ▸ hclr) (hp ▸ hlen)
  refine ⟨fun ha => ?_, fun ha => ?_, fun ha => ?_, fun ha => ?_⟩ <;> rw [sequenced_of_at hat ha]
  · refine ⟨sequenced none 0 ms s.frameValidEdge.interruptMove.ackFv.clearReady, ?_, rfl, by simp [sequenced]⟩
    exact (run_succ_of_step (step_sequenced_fvEdge ..) 3).trans <|
      (run_succ_of_step (step_sequenced_interrupt ..) 2).trans <|
      (run_succ_of_step (ack _ _ (by simp) (by simp)) 1).trans <|
      run_succ_of_step (clr _ _ (by simp) (by simp)) 0
  · refine ⟨sequenced none 0 ms s.frameValidEdge.ackFv.clearReady.interruptMove, ?_,
      by simp [sequenced, State.interruptMove], by simp [sequenced, State.interruptMove]⟩
    exact (run_succ_of_step (step_sequenced_fvEdge ..) 3).trans <|
      (run_succ_of_step (ack _ _ (by simp) (by simp)) 2).trans <|
      (run_succ_of_step (clr _ _ (by simp) (by simp)) 1).trans <|
      run_succ_of_step (step_sequenced_interrupt ..) 0
  · refine ⟨sequenced none 0 ms s.ackFv.frameValidEdge.interruptMove.clearReady, ?_, rfl,
      by simp [sequenced, State.interruptMove]⟩
    exact (run_succ_of_step (ack _ _ rfl rfl) 3).trans <|
      (run_succ_of_step (step_sequenced_fvEdge ..) 2).trans <|
      (run_succ_of_step (step_sequenced_interrupt ..) 1).trans <|
      run_succ_of_step (clr _ _ (by simp) (by simp)) 0
  · refine ⟨sequenced none 0 ms s.ackFv.frameValidEdge.clearReady.interruptMove, ?_,
      by simp [sequenced, State.interruptMove], by simp [sequenced, State.interruptMove]⟩
    exact (run_succ_of_step (ack _ _ rfl rfl) 3).trans <|
      (run_succ_of_step (step_sequenced_fvEdge ..) 2).trans <|
      (run_succ_of_step (clr _ _ (by simp) (by simp)) 1).trans <|
      run_succ_of_step (step_sequenced_interrupt ..) 0

end Sys2Proof.Machine
end

section
/-! SUPPORT. The proofs of the statements on completion: what a move can do while a command is in progress, and what follows
for runs (spec/70_reset_and_hazards.md R266). -/
namespace Sys2Proof.Machine

/-! ### One move while a command is in progress (R31) -/

/-- A move is a step whose agenda begins with it. -/
theorem take_eq_step (m : Config.Move) (s : State) : take m s = step { s with agenda := m :: s.agenda } :=
  (step_cons (s := { s with agenda := m :: s.agenda }) rfl).symm

/-- A move takes nothing off the agenda and adds nothing to it. -/
theorem take_agenda {m : Config.Move} {s t : State} (h : take m s = .next t) : t.agenda = s.agenda := by
  rw [take_eq_step] at h
  have hchosen := State.afterChoice_cons (s := { s with agenda := m :: s.agenda }) rfl
  cases step_next h
  all_goals subst t; simp [hchosen]

/-- What a move other than reset can do while command `c` is in progress, unfaulted. -/
inductive BusyCase (c : Instr) (m : Config.Move) (s t : State) : Prop where
  /-- Another agent moves. -/
  | waits (hm : m ≠ .block) (h : s.SameBlock t)
  /-- The block holds at a `TX`. -/
  | holds (src : Src) (hm : m = .block) (hp : (mu s.params.pixelCount c)[s.upc]? = some (.tx src))
      (htx : s.txReady = false) (h : t = s)
  /-- The block performs a micro-operation that is not the last. -/
  | goesOn (op : MicroOp) (hm : m = .block) (hp : (mu s.params.pixelCount c)[s.upc]? = some op)
      (hk : s.upc + 1 < muLength s.params.pixelCount c) (h : t = goOn (s.upc + 1) (op.perform s))
  /-- The block performs the last micro-operation. -/
  | retires (op : MicroOp) (hm : m = .block) (hp : (mu s.params.pixelCount c)[s.upc]? = some op)
      (hk : s.upc + 1 = muLength s.params.pixelCount c) (h : t = retire (op.perform s))

/-- A move that is neither the block's nor a reset leaves the block where it is. -/
theorem take_sameBlock {m : Config.Move} {s t : State} (h : take m s = .next t) (hblock : m ≠ .block)
    (hreset : m ≠ .reset) : s.SameBlock t := by
  rw [take_eq_step] at h
  cases step_block h
  case same h =>
    exact ⟨h.rclk, h.rrst, h.latch, h.hi, h.lo, h.pix16, h.bus, h.cmd, h.upc, h.err, h.frameCount, h.params, h.hist⟩
  case reset hm _ => exact absurd hm hreset
  all_goals exact absurd ‹_ = Config.Move.block› hblock

theorem take_busy {c : Instr} {m : Config.Move} {s t : State} (h : take m s = .next t) (he : s.err = .none)
    (hc : s.cmd = some c) (hreset : m ≠ .reset) : BusyCase c m s t := by
  by_cases hm : m = .block
  · subst hm
    have hx : exec c s = .next t := (blockMove_busy he hc).symm.trans h
    obtain ⟨_, hne⟩ | ⟨_, hn, _⟩ | ⟨_, _, op, hp, ⟨hen, ht⟩ | ⟨hen, ht⟩⟩ := exec_next hx
    · obtain hne | ⟨d, hd, hne⟩ := hne
      · exact absurd he hne
      · exact absurd (Option.some.inj (hd.symm.trans hc)) hne
    · exact absurd (hc.symm.trans hn) nofun
    · have hk := upc_lt_of_getElem? hp
      by_cases hlast : s.upc + 1 = muLength s.params.pixelCount c
      · exact .retires op rfl hp hlast (ht.trans (advance_eq_retire hlast _ (by simp)))
      · exact .goesOn op rfl hp (by omega) (ht.trans (advance_eq_goOn hlast _ (by simp)))
    · obtain ⟨htx, src, rfl⟩ : s.txReady = false ∧ ∃ src, op = .tx src := by
        have hnot := mt (MicroOp.enabled_iff s op).mpr (by simp [hen])
        push Not at hnot
        exact ⟨by simpa using hnot.1, hnot.2⟩
      exact .holds src rfl hp htx ht
  · exact .waits hm (take_sameBlock h hm hreset)

/-! ### Progress (R31) -/

/-- `t` has command `c` in progress at position `k`, with no more frames counted than `s`. -/
structure State.Reaches (c : Instr) (k : Nat) (s t : State) : Prop where
  pos : t.At c k
  frameCount : t.frameCount = s.frameCount
  params : t.params = s.params

/-- `t` has retired command `c`, in progress in `s`: a drain has cleared READY and counted its frame. -/
structure State.Completed (c : Instr) (s t : State) : Prop where
  cmd : t.cmd = none
  err : t.err = .none
  drained : isDrain c = true → t.ready = false ∧ t.frameCount = (s.frameCount + 1) % 2 ^ s.params.frameCountWidth

theorem State.Completed.of_reaches {c : Instr} {k : Nat} {s t u : State} (h : s.Reaches c k t) (hu : t.Completed c u) :
    s.Completed c u := by
  obtain ⟨hcmd, herr, hdrained⟩ := hu
  rw [h.frameCount, h.params] at hdrained
  exact ⟨hcmd, herr, hdrained⟩

/-- Before the last position no frame is counted. -/
theorem State.reaches_goOn {c : Instr} {s : State} {op : MicroOp} (he : s.err = .none) (hc : s.cmd = some c)
    (hp : (mu s.params.pixelCount c)[s.upc]? = some op) (hk : s.upc + 1 < muLength s.params.pixelCount c) :
    s.Reaches c (s.upc + 1) (goOn (s.upc + 1) (op.perform s)) := by
  have hclr : op ≠ .clrRdy := by
    rintro rfl
    obtain ⟨_, hlast⟩ := clrRdy_at_drain_end hp
    omega
  exact ⟨⟨by simp [goOn, he], by simp [goOn, hc], rfl⟩, MicroOp.perform_frameCount_of_ne hclr s, op.perform_params s⟩

/-- The last micro-operation of a drain clears READY and counts the frame. -/
theorem State.completed_retire {c : Instr} {s : State} {op : MicroOp} (he : s.err = .none)
    (hp : (mu s.params.pixelCount c)[s.upc]? = some op) (hk : s.upc + 1 = muLength s.params.pixelCount c) :
    s.Completed c (retire (op.perform s)) := by
  refine ⟨rfl, by simp [retire, he], fun hd => ?_⟩
  obtain ⟨k, hlen, _, hclr⟩ := getElem?_drain_end s.params.pixelCount hd
  rw [show s.upc = k + 1 by omega, hclr] at hp
  obtain rfl := Option.some.inj hp
  exact ⟨rfl, rfl⟩

/-- A move that no `TX` can hold: the block's turn brings the command one position further or retires it, any other move
leaves it where it is. -/
theorem take_progress {c : Instr} {m : Config.Move} {s t : State} {k : Nat} (hat : s.At c k) (h : take m s = .next t)
    (hreset : m ≠ .reset) (htx : s.txReady = true ∨ ∀ src, .tx src ∉ mu s.params.pixelCount c) :
    (m ≠ .block ∧ s.Reaches c k t) ∨
    (m = .block ∧ k + 1 < muLength s.params.pixelCount c ∧ s.Reaches c (k + 1) t) ∨
    (m = .block ∧ k + 1 = muLength s.params.pixelCount c ∧ s.Completed c t) := by
  obtain ⟨he, hc, rfl⟩ := hat
  cases take_busy h he hc hreset
  case waits hm hs =>
    exact .inl ⟨hm, ⟨hs.err.trans he, hs.cmd.trans hc, hs.upc⟩, hs.frameCount, hs.params⟩
  case holds src _ hp hlow _ =>
    obtain hhigh | hno := htx
    · exact absurd (hhigh.symm.trans hlow) nofun
    · exact absurd (List.mem_of_getElem? hp) (hno src)
  case goesOn op hm hp hk ht => exact .inr (.inl ⟨hm, hk, ht ▸ State.reaches_goOn he hc hp hk⟩)
  case retires op hm hp hk ht => exact .inr (.inr ⟨hm, hk, ht ▸ State.completed_retire he hp hk⟩)

/-! ### Completion after the remaining block turns (R140) -/

/-- At a position of its micro-program a command's step answers a next state (R24). -/
theorem exists_step_of_at {c : Instr} {s : State} {k : Nat} (hat : s.At c k)
    (hk : k < muLength s.params.pixelCount c) : ∃ t, step s = .next t := by
  obtain ⟨_, hc, rfl⟩ := hat
  obtain ⟨t, h, _⟩ := legalPositionNeverStops.2 s (State.positioned_of_busy hc hk)
  exact ⟨t, h⟩

/-- Under moves without a reset, a command that transmits nothing retires with the last of its remaining block turns. -/
theorem run_completes {c : Instr} (hc : c = .rdb ∨ c = .rpr ∨ c = .pxd ∨ c = .drd) {ms rest : List Config.Move}
    {s : State} {k : Nat} (hat : s.At c k) (ha : s.agenda = ms ++ .block :: rest) (hreset : .reset ∉ ms)
    (hcount : ms.count .block + 1 = muLength s.params.pixelCount c - k) :
    ∃ t, run (ms.length + 1) s = .next t ∧ s.Completed c t := by
  have hno := fun src => tx_not_mem_mu s.params.pixelCount hc src
  obtain ⟨t, hstep⟩ := exists_step_of_at hat (by omega)
  induction ms generalizing s k t with
  | nil =>
    have htake : take .block { s with agenda := rest } = .next t := (step_cons ha).symm.trans hstep
    have hk : k + 1 = muLength s.params.pixelCount c := by rw [List.count_nil] at hcount; omega
    obtain ⟨hm, _⟩ | ⟨_, hlt, _⟩ | ⟨_, _, hdone⟩ := take_progress (s := { s with agenda := rest }) hat htake nofun (.inr hno)
    · exact absurd rfl hm
    · exact absurd hk hlt.ne
    · exact ⟨t, run_succ_of_step hstep 0, hdone.cmd, hdone.err, hdone.drained⟩
  | cons m ms ih =>
    obtain ⟨hm, hms⟩ := List.ne_and_not_mem_of_not_mem_cons hreset
    have htake : take m { s with agenda := ms ++ .block :: rest } = .next t := (step_cons ha).symm.trans hstep
    have hgo : ∀ j, s.Reaches c j t → ms.count .block + 1 = muLength s.params.pixelCount c - j →
        ∃ u, run ((m :: ms).length + 1) s = .next u ∧ s.Completed c u := by
      intro j ht hj
      rw [← ht.params] at hj hno
      obtain ⟨v, hv⟩ := exists_step_of_at ht.pos (by omega)
      obtain ⟨u, hrun, hu⟩ := ih ht.pos (take_agenda htake) hms hj hno v hv
      exact ⟨u, (run_succ_of_step hstep _).trans hrun, .of_reaches ht hu⟩
    obtain ⟨hne, ht⟩ | ⟨rfl, hlt, ht⟩ | ⟨rfl, hlast, _⟩ :=
      take_progress (s := { s with agenda := ms ++ .block :: rest }) hat htake hm.symm (.inr hno)
    · exact hgo k ⟨ht.pos, ht.frameCount, ht.params⟩ (by rwa [List.count_cons_of_ne hne] at hcount)
    · exact hgo (k + 1) ⟨ht.pos, ht.frameCount, ht.params⟩ (by rw [List.count_cons_self] at hcount; omega)
    · rw [List.count_cons_self] at hcount
      have hmore : k + 1 ≠ muLength s.params.pixelCount c := by omega
      exact absurd hlast hmore

/-- Settles O56, from `run_completes`. -/
theorem commandsWithoutTransmitComplete : Obligations.CommandsWithoutTransmitComplete := by
  intro ms rest s c hc he hcmd _ ha hreset hcount
  obtain ⟨t, hrun, hdone⟩ := run_completes hc ⟨he, hcmd, rfl⟩ ha hreset hcount
  exact ⟨t, hrun, hdone.cmd, hdone.err, fun hdrd => hdone.drained (hdrd ▸ rfl)⟩

/-! ### Completion under fairness (R266) -/

section
variable {sched : Nat → Config.Move} {r : Nat → State}

/-- A command that never leaves its position waits at a `TX`, with TX_READY at 0 at each of the block's turns. -/
theorem holds_of_stays {c : Instr} {u : Nat} (hrun : IsRun sched r) (hreset : NoReset sched) {k : Nat}
    (hstay : ∀ j, k ≤ j → (r j).At c u) (hparams : ∀ j, k ≤ j → (r j).params = (r k).params) {j : Nat} (hj : k ≤ j)
    (hblock : sched j = .block) :
    (r j).txReady = false ∧ ∃ src, (mu (r k).params.pixelCount c)[u]? = some (.tx src) := by
  have ⟨he, hc, hu⟩ := hstay j hj
  have ⟨_, hc', hu'⟩ := hstay (j + 1) (by omega)
  cases take_busy (hrun j) he hc (hreset j)
  case waits hm _ => exact absurd hblock hm
  case holds src _ hp htx _ => exact ⟨htx, src, by rwa [hu, hparams j hj] at hp⟩
  case goesOn op _ _ _ ht =>
    rw [ht] at hu'
    exact absurd hu' (by simp [goOn, hu])
  case retires op _ _ _ ht =>
    rw [ht] at hc'
    exact absurd hc' nofun

/-- No command stays at its position for ever in a fair run that meets TxEventuallyReady. -/
theorem not_stays {c : Instr} {u : Nat} (hrun : IsRun sched r) (hreset : NoReset sched) (hfair : FairToBlock sched r)
    (hready : TxEventuallyReady sched r) {k : Nat} (hlt : u < muLength (r k).params.pixelCount c)
    (hstay : ∀ j, k ≤ j → (r j).At c u) (hparams : ∀ j, k ≤ j → (r j).params = (r k).params) : False := by
  have hholds := fun {j} => holds_of_stays hrun hreset hstay hparams (j := j)
  obtain ⟨op, hop⟩ : ∃ op, (mu (r k).params.pixelCount c)[u]? = some op :=
    ⟨_, List.getElem?_eq_getElem (by rwa [mu_length])⟩
  have henabled : ∀ j, k ≤ j → ((r j).txReady = true ∨ ∀ src, op ≠ .tx src) → (r j).BlockEnabled := by
    intro j hj hen
    obtain ⟨he, hc, hu⟩ := hstay j hj
    exact ⟨he, .inl ⟨c, op, hc, by rwa [hu, hparams j hj], (MicroOp.enabled_iff _ _).mpr hen⟩⟩
  by_cases htx : ∃ src, op = .tx src
  · obtain ⟨src, rfl⟩ := htx
    have ⟨he, hc, hu⟩ := hstay k (Nat.le_refl k)
    obtain ⟨i, hi, hhigh⟩ := hready k ⟨he, c, src, hc, hu ▸ hop⟩
    have hnever : ∀ l, i ≤ l → sched l ≠ .block := by
      intro l
      induction l using Nat.strongRecOn with
      | _ l ih =>
        intro hl hblock
        obtain ⟨hlow, _⟩ := hholds (by omega) hblock
        exact absurd (hlow.symm.trans (hhigh l hl fun n hn hnl => ih n hnl hn)) nofun
    obtain ⟨j, hj, hblock⟩ := hfair i fun j hj =>
      henabled j (by omega) (.inl (hhigh j hj fun n hn _ => hnever n hn))
    exact hnever j hj hblock
  · push Not at htx
    obtain ⟨j, hj, hblock⟩ := hfair k fun j hj => henabled j hj (.inr htx)
    obtain ⟨_, src, hsrc⟩ := hholds hj hblock
    exact htx src (Option.some.inj (hop.symm.trans hsrc))

/-- In a fair run that meets TxEventuallyReady a command goes on or retires. -/
theorem leaves_position {c : Instr} {u : Nat} (hrun : IsRun sched r) (hreset : NoReset sched) (hfair : FairToBlock sched r)
    (hready : TxEventuallyReady sched r) {k : Nat} (hlt : u < muLength (r k).params.pixelCount c)
    (hat : (r k).At c u) :
    ∃ j, (r j).cmd = none ∨
      ((r j).At c (u + 1) ∧ u + 1 < muLength (r k).params.pixelCount c ∧ (r j).params = (r k).params) := by
  by_contra hnone
  push Not at hnone
  have hstay : ∀ n, (r (k + n)).At c u ∧ (r (k + n)).params = (r k).params := by
    intro n
    induction n with
    | zero => exact ⟨hat, rfl⟩
    | succ n ih =>
      have ⟨⟨he, hc, hu⟩, hp⟩ := ih
      obtain ⟨hbusy, hmore⟩ := hnone (k + (n + 1))
      cases take_busy (hrun (k + n)) he hc (hreset _)
      case waits _ hs => exact ⟨⟨hs.err.trans he, hs.cmd.trans hc, hs.upc.trans hu⟩, hs.params.trans hp⟩
      case holds _ _ _ _ ht => exact ht ▸ ih
      case goesOn op _ hop hk ht =>
        obtain ⟨hnext, _, hparams⟩ := State.reaches_goOn he hc hop hk
        rw [← ht] at hnext hparams
        rw [hp, hu] at hk
        exact absurd (hparams.trans hp) (hmore (hu ▸ hnext) hk)
      case retires op _ _ _ ht => exact absurd (by rw [← Nat.add_assoc, ht]; rfl) hbusy
  refine not_stays hrun hreset hfair hready hlt (fun j hj => ?_) (fun j hj => ?_) <;>
    obtain ⟨n, rfl⟩ := Nat.exists_eq_add_of_le hj
  · exact (hstay n).1
  · exact (hstay n).2

/-- A command with `n` positions to come retires. -/
theorem retires_of_fair {c : Instr} (hrun : IsRun sched r) (hreset : NoReset sched) (hfair : FairToBlock sched r)
    (hready : TxEventuallyReady sched r) (n : Nat) {u k : Nat} (hlen : muLength (r k).params.pixelCount c = u + (n + 1))
    (hat : (r k).At c u) : ∃ j, (r j).cmd = none := by
  induction n generalizing u k with
  | zero =>
    obtain ⟨j, hj | ⟨_, hlt, _⟩⟩ := leaves_position hrun hreset hfair hready (by omega) hat
    · exact ⟨j, hj⟩
    · omega
  | succ n ih =>
    obtain ⟨j, hj | ⟨hnext, _, hparams⟩⟩ := leaves_position hrun hreset hfair hready (by omega) hat
    · exact ⟨j, hj⟩
    · exact ih (by rw [hparams]; omega) hnext

end

/-- Settles O57, from `retires_of_fair`. -/
theorem fairRunsRetireCommands : Obligations.FairRunsRetireCommands := by
  intro sched r c hrun hreset hfair hready he hc hpos
  have hlt : (r 0).upc < muLength (r 0).params.pixelCount c := by simpa [State.Positioned, hc] using hpos
  exact retires_of_fair hrun hreset hfair hready (muLength (r 0).params.pixelCount c - (r 0).upc - 1) (by omega)
    ⟨he, hc, rfl⟩

/-! ### Frame-valid edges under fairness (R266) -/

/-- Only a frame-valid edge sets the pending bit (R34). -/
theorem take_keeps_not_pending {m : Config.Move} {s t : State} (h : take m s = .next t) (hm : m ≠ .fvEdge)
    (hs : s.fvPending = false) : t.fvPending = false := by
  rw [take_eq_step] at h
  cases step_next h
  case fvEdge he _ => exact absurd he hm
  case performed _ op _ _ _ _ _ ht =>
    by_cases hack : op = .ackFv
    · simp [ht, hack, MicroOp.perform]
    · simp [ht, MicroOp.perform_fvPending_of_ne hack, hs]
  all_goals subst t; simp [hs]

/-- The interrupt context's turn leaves no edge pending (R210). -/
theorem take_interrupt_not_pending {s t : State} (h : take .interrupt s = .next t) : t.fvPending = false := by
  obtain rfl := Host.Outcome.next.inj h
  rcases hf : s.fvPending with _ | _ <;> simp [State.interruptMove, hf]

/-- Settles O58: after the last edge the interrupt context, if an edge is pending, has its turn, and nothing sets the bit
again. -/
theorem finiteEdgesAreHandled : Obligations.FiniteEdgesAreHandled := by
  intro sched r hrun ⟨k, hedges⟩ hfair
  have hstays : ∀ i, k ≤ i → (r i).fvPending = false → ∀ j, i ≤ j → (r j).fvPending = false := by
    intro i hi hclear j hj
    induction j, hj using Nat.le_induction with
    | base => exact hclear
    | succ j hj ih => exact take_keeps_not_pending (hrun j) (hedges j (by omega)) ih
  by_cases hpending : ∀ j, k ≤ j → (r j).fvPending = true
  · obtain ⟨j, hj, hturn⟩ := hfair k hpending
    have hclear := take_interrupt_not_pending (hturn ▸ hrun j)
    exact ⟨j + 1, hstays (j + 1) (by omega) hclear⟩
  · push Not at hpending
    obtain ⟨i, hi, hclear⟩ := hpending
    exact ⟨i, hstays i hi (by simpa using hclear)⟩

end Sys2Proof.Machine
end

section
/-! SUPPORT. The proof of the statement on the sensor: under its premises a drain delivers the sensor's frame
(spec/20_memory.md R61, R62, spec/70_reset_and_hazards.md R260, R262). -/
namespace Sys2Proof.Machine

/-! ### The sensor's read pointer along a micro-program (R61) -/

/-- What a performed micro-operation says of the sensor's read pointer. -/
def MicroOp.rewind (p : Rewind) : MicroOp → Rewind
  | .rclk l => p.after (.rclk l)
  | .rrst a => p.after (.rrst a)
  | .sample _ => p.sampled
  | .tx _ => p
  | .pix => p
  | .ackFv => p
  | .clrRdy => p

theorem MicroOp.after_event (m : MicroOp) (s : State) (p : Rewind) : p.after (m.event s) = m.rewind p := by
  cases m <;> rfl

theorem MicroOp.rewindOf_perform (m : MicroOp) (s : State) : rewindOf (m.perform s).hist = m.rewind (rewindOf s.hist) := by
  rw [MicroOp.perform_hist, rewindOf_snoc, MicroOp.after_event]

/-- The other agents' events say nothing of the pointer. -/
theorem State.SameBlock.rewindOf_hist {s t : State} (h : s.SameBlock t) : rewindOf t.hist = rewindOf s.hist := by
  obtain hh | hh | ⟨r, hh⟩ := h.hist
  · rw [hh]
  · rw [hh, rewindOf_snoc]; rfl
  · rw [hh, rewindOf_snoc]; rfl

/-- An RPR completes a rewind, whatever came before (R105). -/
theorem foldl_rewind_rpr (p : Rewind) : muRpr.foldl MicroOp.rewind p = .inOrder true 0 := by
  simp only [muRpr, List.foldl_cons, MicroOp.rewind, Rewind.after_rrst_true]
  decide

/-- Without another rewind the samples of a rewound sensor are counted. -/
theorem foldl_rewind_inOrder {p : List MicroOp} (hp : ∀ a, .rrst a ∉ p) (clock : Bool) (j : Nat) :
    ∃ clock', p.foldl MicroOp.rewind (.inOrder clock j) = .inOrder clock' (j + p.countP isSample) := by
  induction p generalizing clock j with
  | nil => exact ⟨clock, rfl⟩
  | cons m p ih =>
    have hrest : ∀ a, .rrst a ∉ p := fun a => List.not_mem_of_not_mem_cons (hp a)
    rw [List.foldl_cons, List.countP_cons]
    cases m
    case rrst a => exact absurd List.mem_cons_self (hp a)
    case rclk l =>
      rw [MicroOp.rewind, Rewind.after_rclk_inOrder]
      exact ih hrest l j
    case sample dst =>
      obtain ⟨clock', h⟩ := ih hrest clock (j + 1)
      exact ⟨clock', h.trans (by simp [isSample]; omega)⟩
    all_goals exact ih hrest clock j

/-- A drain is a rewind and then a micro-program without another one (R140, R145). -/
theorem mu_drain_begin (n : Nat) {c : Instr} (hd : isDrain c = true) :
    ∃ q, mu n c = muRpr ++ q ∧ ∀ a, .rrst a ∉ q := by
  obtain rfl | rfl := eq_drd_or_drs_of_isDrain hd
  · have hpix : ∀ a, .rrst a ∉ repeated muPxd n := fun a hm => absurd (mem_repeated hm) (by simp [muPxd])
    exact ⟨_, rfl, fun a => by simp [hpix]⟩
  · have hpix : ∀ a, .rrst a ∉ repeated muPxs n := fun a hm => absurd (mem_repeated hm) (by simp [muPxs])
    exact ⟨_, rfl, fun a => by simp [muTxsm, muTxem, hpix]⟩

/-- At a drain's sample the sensor is rewound, and its samples have been counted since. -/
theorem foldl_rewind_drain {n k : Nat} {c : Instr} {dst : Dst} (hd : isDrain c = true)
    (hk : (mu n c)[k]? = some (.sample dst)) (p : Rewind) :
    ∃ clock, ((mu n c).take k).foldl MicroOp.rewind p =
      .inOrder clock (((mu n c).take k).countP isSample) := by
  obtain ⟨q, hq, hrrst⟩ := mu_drain_begin n hd
  rw [hq] at hk ⊢
  have hge : muRpr.length ≤ k := by
    by_contra hlt
    rw [List.getElem?_append_left (by omega)] at hk
    exact absurd (List.mem_of_getElem? hk) (by simp [muRpr])
  rw [List.take_append, List.take_of_length_le hge, List.foldl_append, foldl_rewind_rpr, List.countP_append]
  exact foldl_rewind_inOrder (fun a hm => hrrst a (List.mem_of_mem_take hm)) true 0

/-- A drain takes two samples to a pixel. -/
theorem drain_countP (n : Nat) {c : Instr} (hd : isDrain c = true) : (mu n c).countP isSample = 2 * n := by
  obtain ⟨hdrd, hdrs⟩ := drain_samples n
  obtain rfl | rfl := eq_drd_or_drs_of_isDrain hd
  · exact hdrd
  · exact hdrs

/-- Before a drain's sample fewer than 2N samples stand. -/
theorem countP_take_lt {n k : Nat} {c : Instr} {dst : Dst} (hd : isDrain c = true)
    (hk : (mu n c)[k]? = some (.sample dst)) : ((mu n c).take k).countP isSample < 2 * n := by
  have hall := drain_countP n hd
  have hle : ((mu n c).take (k + 1)).countP isSample ≤ (mu n c).countP isSample :=
    (List.take_sublist ..).countP_le
  rw [List.take_add_one, hk, List.countP_append] at hle
  have hone : (some (MicroOp.sample dst)).toList.countP isSample = 1 := rfl
  omega

/-! ### The pixels of a frame (R62) -/

theorem pixelsOf_flatMap (pixels : List (Byte × Byte)) :
    pixelsOf (pixels.flatMap fun p => [p.1, p.2]) = pixels.map fun p => p.1 ++ p.2 := by
  induction pixels with
  | nil => rfl
  | cons p pixels ih => exact congrArg (List.cons _) ih

/-- Pixel `i` of a frame is its bytes `2i` and `2i + 1`, high byte first. -/
theorem pixelsOf_frame (f : Nat → Byte) (n : Nat) :
    pixelsOf ((List.range (2 * n)).map f) = (List.range n).map fun i => f (2 * i) ++ f (2 * i + 1) := by
  have hpairs : (List.range (2 * n)).map f =
      ((List.range n).map fun i => (f (2 * i), f (2 * i + 1))).flatMap fun p => [p.1, p.2] := by
    induction n with
    | zero => rfl
    | succ n ih => rw [Nat.mul_succ, List.range_succ, List.range_succ]; simp [List.range_succ, ih]
  rw [hpairs, pixelsOf_flatMap, List.map_map]
  rfl

/-! ### A drain along a run without a reset -/

/-- The command `c`, which says `x` of the sensor's pointer at its acceptance, is in progress: the history is that of the
micro-operations performed (R61, R147). -/
structure State.InCommand (c : Instr) (x : Rewind) (s : State) : Prop where
  err : s.err = .none
  cmd : s.cmd = some c
  traced : s.TracedBy s.performed
  rewound : rewindOf s.hist = s.performed.foldl MicroOp.rewind x

/-- The move that accepts a command begins it. -/
theorem take_accepts {c : Instr} {sched : Nat → Config.Move} {r : Nat → State} {a : Nat} (hrun : IsRun sched r)
    (hacc : AcceptedAt c sched r a) :
    (r (a + 1)).At c 0 ∧ (r (a + 1)).params = (r a).params ∧ sinceAccept (r (a + 1)).hist = [] := by
  obtain ⟨hblock, hs, hw, hready⟩ := hacc
  have hstep := (take_eq_step _ _).symm.trans (hblock ▸ hrun a)
  have haccept := step_accepts (s := { r a with agenda := .block :: (r a).agenda }) hs hw hready rfl
  obtain ht := Host.Outcome.next.inj (hstep.symm.trans haccept)
  obtain ⟨he, _⟩ := hs
  rw [ht]
  exact ⟨⟨he, rfl, rfl⟩, rfl, sinceAccept_accept ..⟩

/-- What a performed micro-operation does to the position and to what is said of the pointer. -/
theorem State.InCommand.perform {c : Instr} {x : Rewind} {s : State} {op : MicroOp} (hs : s.InCommand c x)
    (hp : (mu s.params.pixelCount c)[s.upc]? = some op) :
    (op.perform s).TracedBy (s.performed ++ [op]) ∧
      rewindOf (op.perform s).hist = (s.performed ++ [op]).foldl MicroOp.rewind x := by
  refine ⟨hs.traced.perform_next hs.cmd hp, ?_⟩
  rw [MicroOp.rewindOf_perform, hs.rewound, List.foldl_append]
  rfl

/-- While the command is in progress every move but a reset keeps this. -/
theorem State.InCommand.step {c : Instr} {x : Rewind} {m : Config.Move} {s t : State} (hs : s.InCommand c x)
    (h : take m s = .next t) (hreset : m ≠ .reset) (hc : t.cmd = some c) : t.InCommand c x := by
  cases take_busy h hs.err hs.cmd hreset
  case waits _ hsame =>
    have hperformed := State.performed_congr hsame.cmd hsame.upc hsame.params
    exact ⟨hsame.err.trans hs.err, hc, hperformed ▸ hsame.tracedBy hs.traced,
      hperformed ▸ hsame.rewindOf_hist.trans hs.rewound⟩
  case holds _ _ _ _ ht => exact ht ▸ hs
  case goesOn op _ hp _ ht =>
    obtain ⟨htraced, hrewound⟩ := hs.perform hp
    rw [State.performed_snoc hs.cmd hp] at htraced hrewound
    have hperformed : t.performed = (mu s.params.pixelCount c).take (s.upc + 1) := by
      simp [ht, goOn, State.performed, hs.cmd]
    subst ht
    exact ⟨by simp [goOn, hs.err], hc, hperformed ▸ htraced.congr rfl rfl rfl, hperformed ▸ hrewound⟩
  case retires op _ _ _ ht =>
    rw [ht] at hc
    exact absurd hc nofun

/-- From step `m` to step `k` a drain has sampled the frame that the sensor held at step `m`, and the sensor has kept it. -/
structure Delivering (z : Sensor) (r : Nat → State) (m k : Nat) : Prop where
  begun : 0 < (r k).upc
  sampled : (r k).sampled = (List.range ((r k).performed.countP isSample)).map (z.frame m)
  kept : (r k).Reading → z.frame k = z.frame m

section
variable {z : Sensor} {sched : Nat → Config.Move} {r : Nat → State} {c : Instr} {x : Rewind} {m k : Nat}

/-- A performed micro-operation samples the next byte of the frame, if it samples one (R61, R262). -/
theorem Delivering.perform {op : MicroOp} (hd : isDrain c = true) (horder : SensorInOrder z r) (hbus : BusStability z)
    (hs : (r k).InCommand c x) (hk : Delivering z r m k)
    (hp : (mu (r k).params.pixelCount c)[(r k).upc]? = some op) (hhist : (r (k + 1)).hist = (op.perform (r k)).hist) :
    (r (k + 1)).sampled = (List.range (((r k).performed ++ [op]).countP isSample)).map (z.frame m) := by
  have hsampled : (r (k + 1)).sampled = (op.perform (r k)).sampled := by rw [State.sampled, hhist, State.sampled]
  rw [hsampled, List.countP_append, List.countP_singleton]
  by_cases hop : isSample op = true
  · obtain ⟨dst, rfl⟩ := isSample_iff.mp hop
    have hlt := countP_take_lt hd hp
    obtain ⟨clock, hrewind⟩ := foldl_rewind_drain hd hp x
    rw [← State.performed_busy hs.cmd] at hlt hrewind
    have hbyte := horder k clock _ _ (hbus k) (hs.rewound.trans hrewind) hlt (hhist.trans (MicroOp.perform_hist ..))
    rw [hk.kept ⟨⟨c, hs.cmd, hd⟩, hk.begun, hlt⟩] at hbyte
    rw [if_pos hop, List.range_succ, List.map_append, ← hk.sampled, MicroOp.perform_sampled]
    exact congrArg (fun v => _ ++ [v]) hbyte
  · rw [if_neg hop, MicroOp.perform_sampled_of_not_sample (by simpa using hop)]
    exact hk.sampled

/-- While the drain is in progress every move but a reset keeps this. -/
theorem Delivering.step (hrun : IsRun sched r) (hreset : NoReset sched) (hd : isDrain c = true)
    (horder : SensorInOrder z r) (hbus : BusStability z) (hkeep : NoOverwriteDuringDrain z r)
    (hs : (r k).InCommand c x) (hc : (r (k + 1)).cmd = some c) (hk : Delivering z r m k) :
    Delivering z r m (k + 1) := by
  cases take_busy (hrun k) hs.err hs.cmd (hreset k)
  case waits _ hsame =>
    have hperformed := State.performed_congr hsame.cmd hsame.upc hsame.params
    have hsampled : (r (k + 1)).sampled = (r k).sampled := by
      obtain hh | hh | ⟨_, hh⟩ := hsame.hist
      · rw [State.sampled, hh, State.sampled]
      · simp [State.sampled, hh, sinceAccept_snoc, sampleStream]
      · simp [State.sampled, hh, sinceAccept_snoc, sampleStream]
    refine ⟨hsame.upc ▸ hk.begun, by rw [hsampled, hperformed]; exact hk.sampled, fun hreading => ?_⟩
    have hbefore : (r k).Reading := by
      unfold State.Reading at *
      rwa [hsame.cmd, hsame.upc, hsame.params, hperformed] at hreading
    exact (hkeep k hbefore hreading).trans (hk.kept hbefore)
  case holds _ _ _ _ ht =>
    exact ⟨ht ▸ hk.begun, ht ▸ hk.sampled, fun hreading =>
      (hkeep k (ht ▸ hreading) hreading).trans (hk.kept (ht ▸ hreading))⟩
  case goesOn op _ hp _ ht =>
    have hhist : (r (k + 1)).hist = (op.perform (r k)).hist := by rw [ht]; rfl
    have hperformed : (r (k + 1)).performed = (r k).performed ++ [op] := by
      rw [State.performed_snoc hs.cmd hp, ht]
      simp [goOn, State.performed, hs.cmd]
    refine ⟨by rw [ht]; exact Nat.succ_pos _, hperformed ▸ hk.perform hd horder hbus hs hp hhist, fun hreading => ?_⟩
    have hbefore : (r k).Reading := by
      obtain ⟨_, _, hlt⟩ := hreading
      refine ⟨⟨c, hs.cmd, hd⟩, hk.begun, ?_⟩
      have hparams : (r (k + 1)).params = (r k).params := by simp [ht, goOn]
      rw [hperformed, List.countP_append, hparams] at hlt
      omega
    exact (hkeep k hbefore hreading).trans (hk.kept hbefore)
  case retires op _ _ _ ht =>
    rw [ht] at hc
    exact absurd hc nofun

/-- No step of a run changes the parameters (R7). -/
theorem IsRun.params (hrun : IsRun sched r) (j : Nat) : (r j).params = (r 0).params := by
  induction j with
  | zero => rfl
  | succ j ih => exact (step_params ((take_eq_step _ _).symm.trans (hrun j))).trans ih

/-- An accepted command is in progress, with its trace, up to the step that retires it. -/
theorem inCommand_of_accepted {a b : Nat} (hrun : IsRun sched r) (hreset : NoReset sched) (hacc : AcceptedAt c sched r a)
    (hret : RetiredBy c r a b) (hk : a + 1 ≤ k) (hkb : k ≤ b) :
    (r k).InCommand c (rewindOf (r (a + 1)).hist) := by
  obtain ⟨hbusy, _⟩ := hret
  induction k, hk using Nat.le_induction with
  | base =>
    obtain ⟨⟨he, hc, hu⟩, _, hsince⟩ := take_accepts hrun hacc
    have hnil : (r (a + 1)).performed = [] := by simp [State.performed, hc, hu]
    exact ⟨he, hc, hnil ▸ State.tracedBy_nil hsince, hnil ▸ rfl⟩
  | succ k hk ih => exact (ih (by omega)).step (hrun k) (hreset k) (hbusy (k + 1) (by omega) hkb)

/-- After its first drive a drain has sampled nothing. -/
theorem Delivering.begin (hd : isDrain c = true) (hs : (r m).InCommand c x) (hu : (r m).upc = 1) :
    Delivering z r m m := by
  have hnone : (r m).performed.countP isSample = 0 := by
    rw [State.performed_busy hs.cmd, hu]
    obtain rfl | rfl := eq_drd_or_drs_of_isDrain hd <;> rfl
  have hempty : (r m).sampled = [] := List.length_eq_zero_iff.mp (hs.traced.counted.symm.trans hnone)
  exact ⟨by omega, by rw [hempty, hnone]; rfl, fun _ => rfl⟩

/-- A drain that retires with step `b` has left its whole trace and the samples of the frame held at step `m`, the first
after its rewind began (R61, R262). -/
theorem retired_drain_delivers {a b : Nat} (hrun : IsRun sched r) (hreset : NoReset sched) (hd : isDrain c = true)
    (hacc : AcceptedAt c sched r a) (hret : RetiredBy c r a b) (horder : SensorInOrder z r) (hbus : BusStability z)
    (hkeep : NoOverwriteDuringDrain z r) (ham : a < m) (hmb : m ≤ b) (hu : (r m).upc = 1) :
    (r (b + 1)).TracedBy (mu (r a).params.pixelCount c) ∧
      (r (b + 1)).sampled = (List.range (2 * (r a).params.pixelCount)).map (z.frame m) := by
  have hin := fun {k} => inCommand_of_accepted hrun hreset hacc hret (k := k)
  obtain ⟨hbusy, hidle⟩ := hret
  have hdeliver : ∀ k, m ≤ k → k ≤ b → Delivering z r m k := by
    intro k hk
    induction k, hk using Nat.le_induction with
    | base => exact fun _ => .begin hd (hin (by omega) hmb) hu
    | succ k hk ih =>
      intro hkb
      exact (ih (by omega)).step hrun hreset hd horder hbus hkeep (hin (by omega) (by omega))
        (hbusy (k + 1) (by omega) hkb)
  have hlast := hin (k := b) (by omega) (Nat.le_refl b)
  have hparams : (r a).params = (r b).params := (hrun.params a).trans (hrun.params b).symm
  rw [hparams]
  cases take_busy (hrun b) hlast.err hlast.cmd (hreset b)
  case waits _ hs => exact absurd (hs.cmd.symm.trans hidle) (by simp [hlast.cmd])
  case holds _ _ _ _ ht => exact absurd (ht ▸ hidle) (by simp [hlast.cmd])
  case goesOn op _ _ _ ht => exact absurd (ht ▸ hidle) (by simp [goOn, hlast.cmd])
  case retires op _ hp hk ht =>
    have hhist : (r (b + 1)).hist = (op.perform (r b)).hist := by rw [ht]; rfl
    have hsampled := (hdeliver b hmb (Nat.le_refl b)).perform hd horder hbus hlast hp hhist
    obtain ⟨htraced, _⟩ := hlast.perform hp
    rw [State.performed_snoc_last hlast.cmd hp hk] at hsampled htraced
    have hcount : (mu (r b).params.pixelCount c).countP isSample = 2 * (r b).params.pixelCount := drain_countP _ hd
    exact ⟨ht ▸ htraced.congr rfl rfl rfl, hcount ▸ hsampled⟩

/-! ### Completion (R140, R145) -/

theorem blockTurns_succ (sched : Nat → Config.Move) (a n : Nat) :
    blockTurns sched a (n + 1) = blockTurns sched a n + if sched (a + n) = .block then 1 else 0 := by
  simp [blockTurns, List.range_succ, List.countP_append, List.countP_singleton]

theorem blockTurns_mono (sched : Nat → Config.Move) (a : Nat) {n k : Nat} (h : n ≤ k) :
    blockTurns sched a n ≤ blockTurns sched a k :=
  (List.range_sublist.mpr h).countP_le

/-- Where no `TX` holds, each of the block's turns after the acceptance brings the command one position further, and the
last one retires it. -/
theorem completes_of_blockTurns {a b : Nat} (hrun : IsRun sched r) (hreset : NoReset sched)
    (hacc : AcceptedAt c sched r a) (hab : a < b)
    (htx : ∀ k, a ≤ k → k < b → (r k).txReady = true ∨ ∀ src, .tx src ∉ mu (r k).params.pixelCount c)
    (hturns : blockTurns sched a (b - a) = muLength (r a).params.pixelCount c + 1) : (r b).cmd = none := by
  obtain ⟨hstart, hparams, _⟩ := take_accepts hrun hacc
  have ⟨hblock, _, _, _⟩ := hacc
  have hprogress : ∀ n, a + (n + 1) ≤ b → ∃ j, blockTurns sched a (n + 1) = j + 1 ∧
      ((j < muLength (r a).params.pixelCount c ∧ (r (a + (n + 1))).At c j) ∨
        (j = muLength (r a).params.pixelCount c ∧ (r (a + (n + 1))).cmd = none)) := by
    intro n
    induction n with
    | zero =>
      exact fun _ => ⟨0, by simp [blockTurns, hblock], .inl ⟨muLength_pos _ c, hstart⟩⟩
    | succ n ih =>
      intro hn
      obtain ⟨j, hj, hcase⟩ := ih (by omega)
      have hstep := hrun (a + (n + 1))
      have hle := blockTurns_mono sched a (show n + 1 + 1 ≤ b - a by omega)
      rw [blockTurns_succ, hj, hturns] at hle
      rw [blockTurns_succ, hj]
      obtain ⟨hlt, hat⟩ | ⟨hlast, hnone⟩ := hcase
      · have hp : (r (a + (n + 1))).params = (r a).params := (hrun.params _).trans (hrun.params a).symm
        obtain ⟨hne, ht⟩ | ⟨hb, hmore, ht⟩ | ⟨hb, hdone, ht⟩ :=
          take_progress hat hstep (hreset _) (htx _ (by omega) (by omega))
        · exact ⟨j, by rw [if_neg hne], .inl ⟨hlt, ht.pos⟩⟩
        · exact ⟨j + 1, by rw [if_pos hb], .inl ⟨hp ▸ hmore, ht.pos⟩⟩
        · exact ⟨j + 1, by rw [if_pos hb], .inr ⟨hp ▸ hdone, ht.cmd⟩⟩
      · have hne : sched (a + (n + 1)) ≠ .block := by
          intro hb
          rw [if_pos hb] at hle
          omega
        have hsame := take_sameBlock hstep hne (hreset _)
        exact ⟨j, by rw [if_neg hne], .inr ⟨hlast, hsame.cmd.trans hnone⟩⟩
  obtain ⟨j, hj, hcase⟩ := hprogress (b - a - 1) (by omega)
  rw [show a + (b - a - 1 + 1) = b by omega] at hcase
  rw [show b - a - 1 + 1 = b - a by omega, hturns] at hj
  obtain ⟨hlt, _⟩ | ⟨_, hnone⟩ := hcase
  · omega
  · exact hnone

end

/-- Settles O26: `retired_drain_delivers` gives the trace and the samples of the retired drain, `TracedBy.drd` and
`TracedBy.drs` its streams, and `completes_of_blockTurns` the completion. -/
theorem drainsDeliverTheSensorsFrame : Obligations.DrainsDeliverTheSensorsFrame := by
  intro z sched r c a b hrun hreset hd hacc hab
  refine ⟨fun hret horder hbus hkeep m ham hmb hu => ?_, fun hready hturns => ?_⟩
  · obtain ⟨htraced, hsampled⟩ := retired_drain_delivers hrun hreset hd hacc hret horder hbus hkeep ham hmb hu
    constructor
    · rintro rfl
      obtain ⟨_, hpix, _⟩ := htraced.drd
      rw [hpix, hsampled, pixelsOf_frame]
    · rintro rfl
      obtain ⟨_, htx, _⟩ := htraced.drs
      rw [htx, hsampled]
  · refine completes_of_blockTurns hrun hreset hacc hab (fun k hak hkb => ?_) hturns
    obtain rfl | hhigh := hready
    · exact .inr (tx_not_mem_mu _ (by simp))
    · exact .inl (hhigh k hak hkb)

end Sys2Proof.Machine
end

section
/-! SUPPORT. The proofs of the statements on the assembler (spec/30_encoding.md R88). -/
namespace Sys2Proof.Machine.Asm

/-! ### Mnemonics, comments and tokens -/

/-- A letter in upper case stays as it is. -/
theorem upper_upper (c : Char) : upper (upper c) = upper c := by
  have hletters : ∀ n, n < 123 → 97 ≤ n → upper (Char.ofNat (n - 32)) = Char.ofNat (n - 32) := by decide
  by_cases hc : ('a'.toNat ≤ c.toNat && c.toNat ≤ 'z'.toNat) = true
  · have hup : upper c = Char.ofNat (c.toNat - 32) := if_pos hc
    rw [Bool.and_eq_true, decide_eq_true_eq, decide_eq_true_eq] at hc
    obtain ⟨hlow, hhigh⟩ := hc
    rw [hup]
    exact hletters _ (Nat.lt_succ_of_le hhigh) hlow
  · have hup : upper c = c := if_neg hc
    rw [hup, hup]

/-- The case of a mnemonic makes no difference. -/
theorem parseTokens_map_upper (mnemonic : List Char) (operands : List (List Char)) :
    parseTokens (mnemonic.map upper :: operands) = parseTokens (mnemonic :: operands) := by
  have hmap : (mnemonic.map upper).map upper = mnemonic.map upper := by
    rw [List.map_map]
    exact List.map_congr_left fun c _ => upper_upper c
  simp only [parseTokens, hmap]

theorem withoutComment_append {line : List Char} (h : ';' ∉ line) (comment : List Char) :
    withoutComment (line ++ ';' :: comment) = withoutComment line := by
  induction line with
  | nil => rfl
  | cons c line ih =>
    obtain ⟨hc, hline⟩ := List.ne_and_not_mem_of_not_mem_cons h
    simp [withoutComment, hc.symm, ih hline]

/-! ### Operands -/

/-- `0x` with two hexadecimal digits (R88). -/
theorem parseOperand_hex_two {a b : Char} {d e : Nat} (ha : hexDigit a = some d) (hb : hexDigit b = some e) :
    parseOperand ['0', 'x', a, b] = byteInRange (16 * d + e) := by
  simp [parseOperand, ha, hb]

/-- `0x` with one hexadecimal digit (R88). -/
theorem parseOperand_hex_one {a : Char} {d : Nat} (ha : hexDigit a = some d) :
    parseOperand ['0', 'x', a] = byteInRange d := by
  simp [parseOperand, ha]

/-- A number in range is its byte (R88). -/
theorem byteInRange_of_lt {n : Nat} (h : n < 256) : byteInRange n = .ok (BitVec.ofNat 8 n) := if_pos h

/-- What `TXB` makes of its one operand (R88). -/
theorem parseTokens_txb (t : List Char) :
    parseTokens [['T', 'X', 'B'], t] = (parseOperand t).map fun b => some (.txb b) := rfl

/-- The digits of a source line are hexadecimal digits, and neither blanks nor comments. -/
theorem hexChar_spec : ∀ d, d < 16 → hexDigit (hexChar d) = some d ∧ isBlank (hexChar d) = false ∧ hexChar d ≠ ';' := by
  decide

/-- The tokens of a TXB line (R88). -/
theorem tokens_txb {a b : Char} (ha : isBlank a = false) (hb : isBlank b = false) (ha' : a ≠ ';') (hb' : b ≠ ';') :
    tokensFrom [] (withoutComment ['T', 'X', 'B', ' ', '0', 'x', a, b]) = [['T', 'X', 'B'], ['0', 'x', a, b]] := by
  simp only [withoutComment, beq_iff_eq, ha', hb']
  simp [tokensFrom, ha, hb, show isBlank 'T' = false from rfl, show isBlank 'X' = false from rfl,
    show isBlank 'B' = false from rfl, show isBlank ' ' = true from rfl, show isBlank '0' = false from rfl,
    show isBlank 'x' = false from rfl]

/-- The line of `TXB` with an operand byte assembles to its word (R88). -/
theorem assembleLine_txb (b : Byte) : assembleLine (sourceOf (.txb b)) = .ok (some (encode (.txb b))) := by
  obtain ⟨hhi, hhiBlank, hhiComment⟩ := hexChar_spec (b.toNat / 16) (by omega)
  obtain ⟨hlo, hloBlank, hloComment⟩ := hexChar_spec (b.toNat % 16) (by omega)
  have hvalue : 16 * (b.toNat / 16) + b.toNat % 16 = b.toNat := Nat.div_add_mod ..
  have hparse : parseLine (sourceOf (.txb b)) = .ok (some (.txb b)) := by
    rw [parseLine, sourceOf, tokens_txb hhiBlank hloBlank hhiComment hloComment, parseTokens_txb,
      parseOperand_hex_two hhi hlo, hvalue, byteInRange_of_lt b.isLt, BitVec.ofNat_toNat, BitVec.setWidth_eq]
    rfl
  rw [assembleLine, hparse]
  rfl

/-- Settles O59, command by command, `assembleLine_txb` being the one with an operand. -/
theorem assemblerWritesEveryCommand : Obligations.AssemblerWritesEveryCommand := by
  refine ⟨fun i => ?_, parseTokens_map_upper, fun line comment h => ?_⟩
  · cases i
    case txb b => exact assembleLine_txb b
    all_goals rfl
  · rw [parseLine, withoutComment_append h, parseLine]

/-! ### Decimal operands -/

/-- A decimal digit's value (R88). -/
theorem decDigit_of_isDigit {c : Char} (h : c.isDigit = true) : decDigit c = some (c.toNat - '0'.toNat) := by
  have hrange : 48 ≤ c.toNat ∧ c.toNat ≤ 57 := by
    simpa [Char.isDigit, UInt32.le_iff_toNat_le] using h
  exact if_pos (by simpa using hrange)

/-- A row of digits is read as the library reads it. -/
theorem decimalFrom_of_isDigit {cs : List Char} (h : ∀ c ∈ cs, c.isDigit = true) (acc : Nat) :
    decimalFrom acc cs = some (Nat.ofDigitChars 10 cs acc) := by
  induction cs generalizing acc with
  | nil => rfl
  | cons c cs ih =>
    simp only [decimalFrom, decDigit_of_isDigit (h c List.mem_cons_self)]
    exact ih (fun d hd => h d (List.mem_cons_of_mem c hd)) _

/-- Leading zeros do not change the value. -/
theorem decimalFrom_zeros (zeros : Nat) (cs : List Char) :
    decimalFrom 0 (List.replicate zeros '0' ++ cs) = decimalFrom 0 cs := by
  induction zeros with
  | zero => rfl
  | succ zeros ih => exact ih

/-- An operand without an `x` is a decimal number (R88). -/
theorem parseOperand_decimal {t : List Char} {n : Nat} (hx : 'x' ∉ t) (hne : t ≠ []) (hn : decimalFrom 0 t = some n) :
    parseOperand t = byteInRange n := by
  unfold parseOperand
  split
  · simp at hx
  · simp at hx
  · exact absurd rfl hne
  · rw [hn]

/-- The decimal digits of a number, with zeros before them (R88). -/
theorem parseOperand_toDigits (zeros n : Nat) :
    parseOperand (List.replicate zeros '0' ++ Nat.toDigits 10 n) = byteInRange n := by
  have hdigits : ∀ c ∈ Nat.toDigits 10 n, c.isDigit = true := fun c =>
    Nat.isDigit_of_mem_toDigits (by decide) (by decide)
  refine parseOperand_decimal (fun hx => ?_) (by simp [Nat.toDigits_ne_nil]) ?_
  · obtain hx | hx := List.mem_append.mp hx
    · exact absurd (List.eq_of_mem_replicate hx) (by decide)
    · exact absurd (hdigits _ hx) (by decide)
  · rw [decimalFrom_zeros, decimalFrom_of_isDigit hdigits, Nat.ofDigitChars_toDigits (by decide) (by decide)]

/-- The library's hexadecimal digits are read by their value. -/
theorem hexDigit_digitChar : ∀ n, n < 16 → hexDigit (Nat.digitChar n) = some n := by decide

/-- Settles O60: the operand's forms have their lemmas above, and a mnemonic other than `TXB` takes none. -/
theorem assemblerChecksOperands : Obligations.AssemblerChecksOperands := by
  refine ⟨fun zeros n => parseOperand_toDigits zeros n, fun n hn => ?_, fun m n hm hn => ?_, fun t b ht => ?_,
    fun t e ht => ?_, rfl, fun _ _ _ => rfl, fun i operand more hi => ?_⟩
  · rw [parseOperand_hex_one (hexDigit_digitChar n hn), byteInRange_of_lt (by omega)]
  · rw [parseOperand_hex_two (hexDigit_digitChar m hm) (hexDigit_digitChar n hn), byteInRange_of_lt (by omega)]
  · rw [parseTokens_txb, ht]; rfl
  · rw [parseTokens_txb, ht]; rfl
  · cases i
    case txb b => exact absurd rfl (hi b)
    all_goals rfl

end Sys2Proof.Machine.Asm
end
